-- ==== Sys2Proof/Word.lean ====
section
/-! DEFINITION. The word types of the packet framing engine: the widths spec/00_scope.md R9 and spec/10_state.md R34 give.
All quantities are unsigned (R10, R95). -/

namespace Sys2Proof

/-- One byte: "unsigned 8-bit" (R9, R10). -/
abbrev Byte := BitVec 8

/-- A length or count register: 9 bits (R26, R38). -/
abbrev Len := BitVec 9

/-- A 10-bit analog sample (R22, R106). -/
abbrev Sample := BitVec 10

/-- The 16-bit relay quantity (R9, R21). -/
abbrev RelayIdx := BitVec 16

end Sys2Proof
end

