-- ==== Sys2Proof/Config.lean ====
section
/-! DEFINITION. What an implementation fixes (the constants and the three open parameters of spec/00_scope.md R9) and the free
values (what the spec calls unspecified). The parameters are data: State carries one Config that no step changes
(log entry 1), so a statement about every state holds for every choice of the open parameters. -/

namespace Sys2Proof

/-- `HANDSHAKE` = 170 = 0xAA (R9, R91). -/
def handshake : Byte := 0xAA#8

/-- `CMD_PREFIX` = 254 = 0xFE, the first payload byte of every device command (R9, R108). -/
def cmdPrefix : Byte := 0xFE#8

/-- `PAYLOAD_MAX` = 255 (R9). -/
def payloadMax : Nat := 255

/-- `FRAME_MAX` = `PAYLOAD_MAX` + 3 (R9). -/
def frameMax : Nat := 258

/-- `ACK_TOTAL` = 4, the whole response of a command-only operation (R9, R157). -/
def ackTotal : Nat := 4

/-- `BRLYON_FORM` (R9, R186): the table's four bytes or the form symmetric to `BRLYOFF`. -/
inductive BrlyonForm where
  | table4
  | sym3
  deriving DecidableEq, Repr

/-- `AD10ONE_NREQ` (R9, R203): 1 or 2. -/
inductive Ad10Nreq where
  | one
  | two
  deriving DecidableEq, Repr

/-- The three open parameters of R9. -/
structure Config where
  /-- `IOERR_W`, the width of the stream's error code (any positive width). -/
  ioErrW : Nat
  /-- `BRLYON_FORM`. -/
  brlyonForm : BrlyonForm
  /-- `AD10ONE_NREQ`. -/
  ad10oneNreq : Ad10Nreq
  deriving DecidableEq, Repr

/-- The defaults R9 gives: `IOERR_W` 8, `BRLYON_FORM` `TABLE4`, `AD10ONE_NREQ` 1. -/
def Config.standard : Config := { ioErrW := 8, brlyonForm := .table4, ad10oneNreq := .one }

/-- The value of a buffer byte that holds no value the spec gives it (R44; U16 of spec/93_implementation_defined.md): FREE.
`era` numbers the times the buffer's contents became unspecified, `addr` is the byte's register number (R34).
The byte keeps this value until it is written or becomes unspecified again (log entry 3). -/
opaque Config.freeByte : (era addr : Nat) → Byte

/-- The value a HOST read returns where the spec leaves it unspecified (R34 unmapped number, R39 `RXBUF` from `RXCNT` on
during `RX`, R43 `RESBUF` from `RLEN` on; U16, U17): FREE, a fresh one for each read (log entry 4). -/
opaque Config.freeRead : (count : Nat) → Nat

end Sys2Proof
end

