-- ==== Sys2Proof/Syntax.lean ====
section
/-! DEFINITION. The abstract syntax: the ops of spec/opcode_table.json, the registers of spec/10_state.md R34, what HOST does
(spec/30_encoding.md R115, R116), what the stream offers (spec/20_memory.md R66), and the moves of the agents
(spec/00_scope.md R7). -/

namespace Sys2Proof

/-- The ops: one constructor per row of spec/opcode_table.json (R110). An op code has no operand fields: operands are in
the operand registers (R21). -/
inductive Instr where
  | nop
  | csum
  | build
  | check
  | payld
  | rawcmd
  | rawrd
  | rlyon
  | rlyoff
  | rlyget
  | bnkset
  | bnkget
  | brlyon
  | brlyoff
  | ad8one
  | ad8all
  | ad10one
  | ad10all
  | clrstale
  | sreset
  deriving DecidableEq, Repr

/-- The registers and buffer bytes of R34, each under its own name. -/
inductive Reg where
  | cmd
  | status
  | err
  | errinfo
  | vflags
  | phase
  | relay
  | bank
  | bstat
  | index
  | chan
  | nreq
  | plen
  | txlen
  | txcnt
  | rxlen
  | rxcnt
  | rlen
  | res
  | ad (i : Fin 8)
  | pbuf (i : Fin 255)
  | txbuf (i : Fin 258)
  | rxbuf (i : Fin 258)
  | resbuf (i : Fin 255)
  deriving DecidableEq, Repr

/-- What HOST may do to a register (R34, column "acc"): read-only, read-write at any time, read-write with writes
accepted only while `BUSY` = 0, or `CMD` (R35). -/
inductive Access where
  | r
  | rw
  | rwi
  | cmd
  deriving DecidableEq, Repr

/-- One HOST access by register number (R34, R72), or the `WAIT` of R115. -/
inductive HostOp where
  /-- HOST writes `value` to register number `no`. -/
  | wr (no value : Nat)
  /-- HOST reads register number `no`. -/
  | rd (no : Nat)
  /-- HOST reads `STATUS` repeatedly until `DONE` = 1. -/
  | wait
  deriving DecidableEq, Repr

/-- One line of a HOST program, by name (R115). -/
inductive Line where
  | wr (r : Reg) (value : Nat)
  | rd (r : Reg)
  | wait
  | op (i : Instr)
  deriving DecidableEq, Repr

/-- The pseudo-instructions of R116. -/
inductive Pseudo where
  | rlyon (n : Nat)
  | rlyoff (n : Nat)
  | rlyget (n : Nat)
  | bnkset (s b : Nat)
  | bnkget (b : Nat)
  | brlyon (i b : Nat)
  | brlyoff (i b : Nat)
  | ad8one (c : Nat)
  | ad8all
  | ad10one (c : Nat)
  | ad10all
  | loadp (bytes : List Byte)
  | loadr (bytes : List Byte)
  deriving DecidableEq, Repr

/-- What the stream offers on TX in one FE step (R66). -/
inductive TxEvent where
  | ready
  | busy
  | err (e : Nat)
  deriving DecidableEq, Repr

/-- What the FE meets on RX in one step (R66). -/
inductive RxEvent where
  | byte (b : Byte)
  | empty
  | err (e : Nat)
  deriving DecidableEq, Repr

/-- The stream's choice on RX in one FE step: deliver the oldest byte it holds, deliver none now, or report an error.
With the bytes the stream holds this gives the `RxEvent` of R66 (R82: bytes not consumed stay with the stream). -/
inductive RxOffer where
  | deliver
  | empty
  | err (e : Nat)
  deriving DecidableEq, Repr

/-- One atomic step of one agent (R7, R73). -/
inductive Turn where
  /-- HOST performs the next access of its program. -/
  | host
  /-- The FE takes a step, in which the stream offers these events (R152, R153). -/
  | fe (tx : TxEvent) (rx : RxOffer)
  /-- CANCEL drives the level input `cancel` (R239). -/
  | cancel (level : Bool)
  /-- The platform drives the input `rst` (R270). -/
  | rst (level : Bool)
  /-- STREAM comes to hold one more byte to deliver (R8, R50: no law on which or when). -/
  | arrive (b : Byte)
  /-- The bytes STREAM holds are lost or discarded by means outside the block (R221, R281). -/
  | drain
  deriving DecidableEq, Repr

end Sys2Proof
end

