-- ==== Sys2Proof/WellFormed.lean ====
section
/-! DEFINITION. Which terms of the syntax are well formed. The machine is defined on all of them; these checks say which ones
the spec's own notations can write. -/

namespace Sys2Proof

/-- Every op is well formed: "An op code has no operand fields" (R110). -/
def Instr.wf : Instr → Bool
  | _ => true

/-- The register numbers R34 maps. -/
def mappedNumber (n : Nat) : Bool :=
  decide (n ≤ 0x05) || decide (0x08 ≤ n ∧ n ≤ 0x0D) || decide (0x10 ≤ n ∧ n ≤ 0x14)
    || decide (0x18 ≤ n ∧ n ≤ 0x19) || decide (0x20 ≤ n ∧ n ≤ 0x27) || decide (0x100 ≤ n ∧ n ≤ 0x1FE)
    || decide (0x200 ≤ n ∧ n ≤ 0x301) || decide (0x400 ≤ n ∧ n ≤ 0x501) || decide (0x600 ≤ n ∧ n ≤ 0x6FE)

/-- An access a program line can write: its number is mapped (R115: "a name of `10_state.md` rule R34, or `BUF[i]`"). -/
def HostOp.wf : HostOp → Bool
  | .wr n _ => mappedNumber n
  | .rd n => mappedNumber n
  | .wait => true

/-- A pseudo-instruction whose operands fit the registers and buffers they are written to (R116, R34, R40, R42). -/
def Pseudo.wf : Pseudo → Bool
  | .rlyon n => decide (n < 65536)
  | .rlyoff n => decide (n < 65536)
  | .rlyget n => decide (n < 65536)
  | .bnkset s b => decide (s < 256) && decide (b < 256)
  | .bnkget b => decide (b < 256)
  | .brlyon i b => decide (i < 256) && decide (b < 256)
  | .brlyoff i b => decide (i < 256) && decide (b < 256)
  | .ad8one c => decide (c < 256)
  | .ad8all => true
  | .ad10one c => decide (c < 256)
  | .ad10all => true
  | .loadp bs => decide (bs.length ≤ 255)
  | .loadr bs => decide (bs.length ≤ 258)

/-- The parameters R9 allows: `IOERR_W` is a positive width. -/
def Config.wf (c : Config) : Bool := decide (0 < c.ioErrW)

/-- An error code the stream can report has `IOERR_W` bits (R66). -/
def errCodeFits (c : Config) (e : Nat) : Bool := decide (e < 2 ^ c.ioErrW)

/-- A TX event of R66. -/
def TxEvent.wf (c : Config) : TxEvent → Bool
  | .ready => true
  | .busy => true
  | .err e => errCodeFits c e

/-- An RX choice of the stream (R66). -/
def RxOffer.wf (c : Config) : RxOffer → Bool
  | .deliver => true
  | .empty => true
  | .err e => errCodeFits c e

/-- An agent's move whose stream events are those of R66. -/
def Turn.wf (c : Config) : Turn → Bool
  | .host => true
  | .fe tx rx => tx.wf c && rx.wf c
  | .cancel _ => true
  | .rst _ => true
  | .arrive _ => true
  | .drain => true

end Sys2Proof
end

