-- ==== Sys2Proof/Decode.lean ====
section
/-! DEFINITION. Decoding, then encoding: op codes (spec/30_encoding.md R110, R113), register numbers (spec/10_state.md R34),
HOST program lines and pseudo-instructions (R115, R116). -/

namespace Sys2Proof

/-- What a `CMD` value stands for: an op, or no op code, rejected by name (R113). -/
inductive Decoded where
  | op (i : Instr)
  | illegalOpcode (c : Byte)
  deriving DecidableEq, Repr

/-- The op code map of R110, row by row. -/
def opcodeTable : List (Byte × Instr) :=
  [ (0x00#8, .nop), (0x01#8, .csum), (0x02#8, .build), (0x03#8, .check), (0x04#8, .payld),
    (0x08#8, .rawcmd), (0x09#8, .rawrd),
    (0x10#8, .rlyon), (0x11#8, .rlyoff), (0x12#8, .rlyget), (0x13#8, .bnkset), (0x14#8, .bnkget),
    (0x15#8, .brlyon), (0x16#8, .brlyoff),
    (0x20#8, .ad8one), (0x21#8, .ad8all), (0x22#8, .ad10one), (0x23#8, .ad10all),
    (0xF0#8, .clrstale), (0xFF#8, .sreset) ]

/-- The first row whose code is `c` ("8 bits, matched exactly, mask 0xFF", R110). -/
def lookupOp (c : Byte) : List (Byte × Instr) → Option Instr
  | [] => none
  | (k, i) :: rest => if k = c then some i else lookupOp c rest

/-- The op a `CMD` value starts; every value not in R110 is illegal (R113). -/
def decode (c : Byte) : Decoded :=
  match lookupOp c opcodeTable with
  | some i => .op i
  | none => .illegalOpcode c

/-- The instruction the decoder reads from a table word: the `CMD` byte (R110; values above the register's width are taken
modulo 2^8, R34). -/
def decodeTableWord (_nbits w : Nat) : Option Instr :=
  match decode (BitVec.ofNat 8 w) with
  | .op i => some i
  | .illegalOpcode _ => none

/-- The op code of each op, from the table of R110. -/
def encode : Instr → Byte
  | .nop => 0x00#8
  | .csum => 0x01#8
  | .build => 0x02#8
  | .check => 0x03#8
  | .payld => 0x04#8
  | .rawcmd => 0x08#8
  | .rawrd => 0x09#8
  | .rlyon => 0x10#8
  | .rlyoff => 0x11#8
  | .rlyget => 0x12#8
  | .bnkset => 0x13#8
  | .bnkget => 0x14#8
  | .brlyon => 0x15#8
  | .brlyoff => 0x16#8
  | .ad8one => 0x20#8
  | .ad8all => 0x21#8
  | .ad10one => 0x22#8
  | .ad10all => 0x23#8
  | .clrstale => 0xF0#8
  | .sreset => 0xFF#8

/-- The exchange ops (R15, R110): `RAWCMD`, `RAWRD` and the eleven device commands; the others are pure. -/
def isExchange : Instr → Bool
  | .nop => false
  | .csum => false
  | .build => false
  | .check => false
  | .payld => false
  | .rawcmd => true
  | .rawrd => true
  | .rlyon => true
  | .rlyoff => true
  | .rlyget => true
  | .bnkset => true
  | .bnkget => true
  | .brlyon => true
  | .brlyoff => true
  | .ad8one => true
  | .ad8all => true
  | .ad10one => true
  | .ad10all => true
  | .clrstale => false
  | .sreset => false

/-- Whether a `CMD` value is the code of an exchange op. -/
def isExchangeCode (c : Byte) : Bool :=
  match decode c with
  | .op i => isExchange i
  | .illegalOpcode _ => false

/-- The register a number names (R34); `none` for an unmapped number. -/
def regOfNumber (n : Nat) : Option Reg :=
  if n = 0x00 then some .cmd
  else if n = 0x01 then some .status
  else if n = 0x02 then some .err
  else if n = 0x03 then some .errinfo
  else if n = 0x04 then some .vflags
  else if n = 0x05 then some .phase
  else if n = 0x08 then some .relay
  else if n = 0x09 then some .bank
  else if n = 0x0A then some .bstat
  else if n = 0x0B then some .index
  else if n = 0x0C then some .chan
  else if n = 0x0D then some .nreq
  else if n = 0x10 then some .plen
  else if n = 0x11 then some .txlen
  else if n = 0x12 then some .txcnt
  else if n = 0x13 then some .rxlen
  else if n = 0x14 then some .rxcnt
  else if n = 0x18 then some .rlen
  else if n = 0x19 then some .res
  else if h : 0x20 ≤ n ∧ n ≤ 0x27 then some (.ad ⟨n - 0x20, by omega⟩)
  else if h : 0x100 ≤ n ∧ n ≤ 0x1FE then some (.pbuf ⟨n - 0x100, by omega⟩)
  else if h : 0x200 ≤ n ∧ n ≤ 0x301 then some (.txbuf ⟨n - 0x200, by omega⟩)
  else if h : 0x400 ≤ n ∧ n ≤ 0x501 then some (.rxbuf ⟨n - 0x400, by omega⟩)
  else if h : 0x600 ≤ n ∧ n ≤ 0x6FE then some (.resbuf ⟨n - 0x600, by omega⟩)
  else none

/-- The number of a register (R34, column "no."). -/
def regNumber : Reg → Nat
  | .cmd => 0x00
  | .status => 0x01
  | .err => 0x02
  | .errinfo => 0x03
  | .vflags => 0x04
  | .phase => 0x05
  | .relay => 0x08
  | .bank => 0x09
  | .bstat => 0x0A
  | .index => 0x0B
  | .chan => 0x0C
  | .nreq => 0x0D
  | .plen => 0x10
  | .txlen => 0x11
  | .txcnt => 0x12
  | .rxlen => 0x13
  | .rxcnt => 0x14
  | .rlen => 0x18
  | .res => 0x19
  | .ad i => 0x20 + i.val
  | .pbuf i => 0x100 + i.val
  | .txbuf i => 0x200 + i.val
  | .rxbuf i => 0x400 + i.val
  | .resbuf i => 0x600 + i.val

/-- The width of a register in bits (R34, column "width"); `ERRINFO` has `IOERR_W` bits. -/
def regWidth (cfg : Config) : Reg → Nat
  | .cmd => 8
  | .status => 8
  | .err => 8
  | .errinfo => cfg.ioErrW
  | .vflags => 8
  | .phase => 2
  | .relay => 16
  | .bank => 8
  | .bstat => 8
  | .index => 8
  | .chan => 8
  | .nreq => 8
  | .plen => 9
  | .txlen => 9
  | .txcnt => 9
  | .rxlen => 9
  | .rxcnt => 9
  | .rlen => 8
  | .res => 8
  | .ad _ => 10
  | .pbuf _ => 8
  | .txbuf _ => 8
  | .rxbuf _ => 8
  | .resbuf _ => 8

/-- HOST's access to a register (R34, column "acc"). -/
def regAccess : Reg → Access
  | .cmd => .cmd
  | .status => .r
  | .err => .r
  | .errinfo => .r
  | .vflags => .r
  | .phase => .r
  | .relay => .rw
  | .bank => .rw
  | .bstat => .rw
  | .index => .rw
  | .chan => .rw
  | .nreq => .rw
  | .plen => .rw
  | .txlen => .r
  | .txcnt => .r
  | .rxlen => .rwi
  | .rxcnt => .r
  | .rlen => .r
  | .res => .r
  | .ad _ => .r
  | .pbuf _ => .rw
  | .txbuf _ => .r
  | .rxbuf _ => .rwi
  | .resbuf _ => .r

/-- The HOST access a program line stands for (R115): an op line is `WR CMD, <op code>`. -/
def encodeLine : Line → HostOp
  | .wr r v => .wr (regNumber r) v
  | .rd r => .rd (regNumber r)
  | .wait => .wait
  | .op i => .wr (regNumber .cmd) (encode i).toNat

/-- The program line an access is written as: a write of an op code to `CMD` is the op's own line; `none` for an access to
an unmapped number, which R115 gives no line. -/
def decodeLine : HostOp → Option Line
  | .wait => some .wait
  | .rd n => (regOfNumber n).map Line.rd
  | .wr n v =>
    match regOfNumber n with
    | none => none
    | some r =>
      if r = .cmd ∧ v < 256 then
        match decode (BitVec.ofNat 8 v) with
        | .op i => some (.op i)
        | .illegalOpcode _ => some (.wr .cmd v)
      else some (.wr r v)

/-- `WR BUF[k], b0 ; WR BUF[k+1], b1 ; ...`, by number, for the buffer whose byte 0 has number `base`. -/
def loadOps (base : Nat) : Nat → List Byte → List HostOp
  | _, [] => []
  | k, b :: bs => .wr (base + k) b.toNat :: loadOps base (k + 1) bs

/-- One operand write, by register name. -/
def wrOp (r : Reg) (v : Nat) : HostOp := encodeLine (.wr r v)

/-- An op line followed by `WAIT`. -/
def callOps (i : Instr) : List HostOp := [encodeLine (.op i), .wait]

/-- `RD AD[0] ... RD AD[7]`. -/
def readAdOps : List HostOp :=
  [.rd 0x20, .rd 0x21, .rd 0x22, .rd 0x23, .rd 0x24, .rd 0x25, .rd 0x26, .rd 0x27]

/-- The expansion of each pseudo-instruction (R116), as the HOST accesses its lines stand for. -/
def expand : Pseudo → List HostOp
  | .rlyon n => wrOp .relay n :: callOps .rlyon
  | .rlyoff n => wrOp .relay n :: callOps .rlyoff
  | .rlyget n => wrOp .relay n :: (callOps .rlyget ++ [encodeLine (.rd .res)])
  | .bnkset s b => wrOp .bstat s :: wrOp .bank b :: callOps .bnkset
  | .bnkget b => wrOp .bank b :: (callOps .bnkget ++ [encodeLine (.rd .res)])
  | .brlyon i b => wrOp .index i :: wrOp .bank b :: callOps .brlyon
  | .brlyoff i b => wrOp .index i :: wrOp .bank b :: callOps .brlyoff
  | .ad8one c => wrOp .chan c :: (callOps .ad8one ++ [encodeLine (.rd .res)])
  | .ad8all => callOps .ad8all ++ readAdOps
  | .ad10one c => wrOp .chan c :: (callOps .ad10one ++ [.rd 0x20])
  | .ad10all => callOps .ad10all ++ readAdOps
  | .loadp bs => loadOps 0x100 0 bs ++ [wrOp .plen bs.length]
  | .loadr bs => loadOps 0x400 0 bs ++ [wrOp .rxlen bs.length]

end Sys2Proof
end

