-- ==== Sys2Proof/Machine/State.lean ====
section
/-! DEFINITION. The state of the machine as plain data: the FE's own state (spec/10_state.md R20), the inputs and the stream
around it (R50, R52), HOST's program and the order in which the agents move (spec/00_scope.md R7, spec/20_memory.md R73).
Also the reasons a step can stop, and the state right after reset (R53, R270). -/

namespace Sys2Proof.Machine

/-- `PHASE` (R25): value 3 is never taken, so it has no constructor. -/
inductive Phase where
  | idle
  | tx
  | rx
  deriving DecidableEq, Repr

/-- `ERR` (R36, R230): a closed set. -/
inductive ErrKind where
  | none
  | invalid
  | timeout
  | io
  | arg
  | short
  deriving DecidableEq, Repr

/-- `STATUS` (R27) bit by bit; bits 7:5 read 0 and have no storage. -/
structure Status where
  busy : Bool
  done : Bool
  ok : Bool
  stale : Bool
  hosterr : Bool
  deriving DecidableEq, Repr

/-- `VFLAGS` (R33) bit by bit; bits 7:5 read 0 and have no storage. -/
structure VFlags where
  size : Bool
  hs : Bool
  len : Bool
  chk : Bool
  valid : Bool
  deriving DecidableEq, Repr

/-- The four byte buffers (R40 to R43). -/
inductive BufId where
  | pbuf
  | txbuf
  | rxbuf
  | resbuf
  deriving DecidableEq, Repr

/-- One byte buffer: the bytes that hold a value, by index, indices strictly rising; an index not listed is unspecified
(R44, U16). `era` is the model's own count of the times the contents became unspecified (log entry 3). -/
structure Buffer where
  cells : List Host.Cell
  era : Nat
  deriving DecidableEq, Repr

/-- The block's whole memory: its four buffers (spec/20_memory.md, opening words). -/
structure Memory where
  pbuf : Buffer
  txbuf : Buffer
  rxbuf : Buffer
  resbuf : Buffer
  deriving DecidableEq, Repr

/-- The complete architectural state of the FE (R20). -/
structure Block where
  /-- `RELAY` (R21). -/
  relay : RelayIdx
  /-- `BANK` (R21). -/
  bank : Byte
  /-- `BSTAT` (R21). -/
  bstat : Byte
  /-- `INDEX` (R21). -/
  index : Byte
  /-- `CHAN` (R21). -/
  chan : Byte
  /-- `NREQ` (R21). -/
  nreq : Byte
  /-- `RES` (R22). -/
  res : Byte
  /-- `RLEN` (R22). -/
  rlen : Byte
  /-- `AD[0..7]` (R22). -/
  ad : Vector Sample 8
  /-- `PHASE` (R25). -/
  phase : Phase
  /-- `TXCNT` (R26). -/
  txcnt : Len
  /-- `RXCNT` (R26). -/
  rxcnt : Len
  /-- `STATUS` (R27). -/
  status : Status
  /-- `VFLAGS` (R33). -/
  vflags : VFlags
  /-- `CMD` (R35). -/
  cmd : Byte
  /-- `ERR` (R36). -/
  err : ErrKind
  /-- `ERRINFO` (R37), an `IOERR_W`-bit code; its width is a parameter, so it is kept below 2^`IOERR_W`, not typed by it. -/
  errinfo : Nat
  /-- `PLEN` (R38). -/
  plen : Len
  /-- `TXLEN` (R38). -/
  txlen : Len
  /-- `RXLEN` (R38). -/
  rxlen : Len
  /-- `PBUF`, `TXBUF`, `RXBUF`, `RESBUF` (R40 to R43). -/
  mem : Memory
  deriving DecidableEq, Repr

/-- The STREAM as the block meets it (R50, R66, R67): environment, not FE state. -/
structure Stream where
  /-- The bytes the STREAM has been sent, in order (R67: "appended to the sequence of bytes the STREAM has been sent"). -/
  sent : List Byte
  /-- The bytes the STREAM holds to deliver, oldest first; what is left of an earlier exchange is the residue (R50, R82). -/
  held : List Byte
  deriving DecidableEq, Repr

/-- The machine: the FE, its parameters and inputs, and the agents around it. -/
structure State where
  /-- The open parameters (R9); no step changes them (log entry 1). -/
  cfg : Config
  /-- The FE (R20). -/
  blk : Block
  /-- The input `cancel`, a level (R52, R239). -/
  cancel : Bool
  /-- The input `rst`, a level (R52, R270). -/
  rst : Bool
  /-- The STREAM (R50). -/
  stream : Stream
  /-- The accesses HOST has still to make (R115). -/
  host : List HostOp
  /-- The values HOST's reads have returned, oldest first. -/
  reads : List Nat
  /-- The model's own count of HOST reads, which picks the next free value (log entry 4). -/
  readCount : Nat
  /-- The moves of the agents still to come, in the order they happen (log entry 2). -/
  turns : List Turn
  deriving DecidableEq, Repr

/-- The reasons the machine stops with a fault: NONE. "No item has the treatment `fault`: the block has an error code for
every input the spec refuses, so the model never needs to stop" (spec/93_implementation_defined.md, section 1). -/
inductive Fault where
  deriving DecidableEq, Repr

/-- The reasons an op is refused. -/
inductive Refusal where
  /-- Raised by `exec`'s arm of an op that has no meaning yet; no arm of this model is one. Safe: the model stops. -/
  | notModelled (mnemonic : String)
  deriving DecidableEq, Repr

/-- Every `STATUS` bit 0 (R27, column "reset"). -/
def Status.clear : Status := { busy := false, done := false, ok := false, stale := false, hosterr := false }

/-- Every `VFLAGS` bit 0 (R33). -/
def VFlags.clear : VFlags := { size := false, hs := false, len := false, chk := false, valid := false }

/-- A buffer no byte of which holds a value. -/
def Buffer.unspecified (era : Nat) : Buffer := { cells := [], era := era }

/-- The reset values of R34 and R53: every register 0, every flag 0, `PHASE` = `IDLE`, with the buffers given. -/
def Block.resetWith (m : Memory) : Block :=
  { relay := 0, bank := 0, bstat := 0, index := 0, chan := 0, nreq := 0, res := 0, rlen := 0,
    ad := #v[0, 0, 0, 0, 0, 0, 0, 0],
    phase := .idle, txcnt := 0, rxcnt := 0, status := Status.clear, vflags := VFlags.clear,
    cmd := 0, err := .none, errinfo := 0, plen := 0, txlen := 0, rxlen := 0, mem := m }

/-- The machine right after reset (R53, R270): the FE in its reset state, all four buffers unspecified, `rst` released,
`cancel` low, nothing sent, nothing held, no HOST access and no move to come (log entries 5 and 6). -/
def State.reset : State :=
  { cfg := Config.standard,
    blk := Block.resetWith
      { pbuf := Buffer.unspecified 0, txbuf := Buffer.unspecified 0, rxbuf := Buffer.unspecified 0,
        resbuf := Buffer.unspecified 0 },
    cancel := false, rst := false, stream := { sent := [], held := [] },
    host := [], reads := [], readCount := 0, turns := [] }

end Sys2Proof.Machine
end

