-- ==== Sys2Proof/Machine/Packet.lean ====
section
/-! DEFINITION. The codec functions (spec/30_encoding.md R95 to R99): checksum, frame, validity, payload, over byte lists. -/

namespace Sys2Proof.Machine

/-- `csum8(s)` (R96): an 8-bit accumulator that starts at 0 and adds each byte modulo 256. -/
def csum8 (s : List Byte) : Byte := s.foldl (· + ·) 0#8

/-- The bytes before the checksum: handshake, length, payload (R90, R97). -/
def framePre (p : List Byte) : List Byte := handshake :: BitVec.ofNat 8 p.length :: p

/-- `frame(p)` (R97). The spec defines it for `len(p)` <= 255; every op that frames a payload checks that first (R133). -/
def frame (p : List Byte) : List Byte := framePre p ++ [csum8 (framePre p)]

/-- `is_valid(s)` (R98): no element is read when `s` has fewer than 3 bytes. -/
def isValid (s : List Byte) : Bool :=
  decide (3 ≤ s.length) && decide (s.getD 0 0 = handshake) && decide ((s.getD 1 0).toNat = s.length - 3)
    && decide (s.getD (s.length - 1) 0 = csum8 (s.take (s.length - 1)))

/-- `payload(s)` = `s[2 .. len(s)-1)` (R99). -/
def payload (s : List Byte) : List Byte := (s.take (s.length - 1)).drop 2

end Sys2Proof.Machine
end

