-- ==== Sys2Proof/Machine/Flags.lean ====
section
/-! DEFINITION. The flag registers and codes as HOST reads them (spec/10_state.md R25, R27, R33, R36), and the validity flags of
a byte sequence (spec/40_codec.md R135). -/

namespace Sys2Proof.Machine

/-- One flag at its bit position. -/
def bitAt (b : Bool) (k : Nat) : Nat := if b then 2 ^ k else 0

/-- `STATUS` as a number (R27): bits 7:5 are 0. -/
def statusByte (st : Status) : Nat :=
  bitAt st.busy 0 + bitAt st.done 1 + bitAt st.ok 2 + bitAt st.stale 3 + bitAt st.hosterr 4

/-- `VFLAGS` as a number (R33): bits 7:5 are 0. -/
def vflagsByte (v : VFlags) : Nat :=
  bitAt v.size 0 + bitAt v.hs 1 + bitAt v.len 2 + bitAt v.chk 3 + bitAt v.valid 4

/-- The values of `PHASE` (R25). -/
def phaseCode : Phase → Nat
  | .idle => 0
  | .tx => 1
  | .rx => 2

/-- The values of `ERR` (R36). -/
def errCode : ErrKind → Nat
  | .none => 0
  | .invalid => 1
  | .timeout => 2
  | .io => 3
  | .arg => 4
  | .short => 5

/-- The five flags of a byte sequence (R135): all zero below 3 bytes; otherwise the three comparisons are all evaluated. -/
def checkFlags (s : List Byte) : VFlags :=
  if s.length < 3 then VFlags.clear
  else
    let hs := decide (s.getD 0 0 = handshake)
    let len := decide ((s.getD 1 0).toNat = s.length - 3)
    let chk := decide (s.getD (s.length - 1) 0 = csum8 (s.take (s.length - 1)))
    { size := true, hs := hs, len := len, chk := chk, valid := hs && len && chk }

end Sys2Proof.Machine
end

