-- ==== Sys2Proof/Machine/Operands.lean ====
section
/-! DEFINITION. Operand encoders and result decoders (spec/30_encoding.md R102 to R107). -/

namespace Sys2Proof.Machine

/-- `enc_relay(n)` (R102): both bytes come from `n` - 1, low byte first. The spec defines it for 1 <= `n`; the relay ops
refuse 0 before they encode (R180). -/
def encRelay (n : RelayIdx) : Byte × Byte :=
  let v := n.toNat - 1
  (BitVec.ofNat 8 (v % 256), BitVec.ofNat 8 (v / 256))

/-- A constant plus an 8-bit operand as one byte (R103, R104): the sum is an integer, and `none` when it exceeds 255; it is
never reduced modulo 256. -/
def offsetByte (base : Nat) (x : Byte) : Option Byte :=
  if base + x.toNat ≤ 255 then some (BitVec.ofNat 8 (base + x.toNat)) else none

/-- `dec_bool(b)` (R105). -/
def decBool (b : Byte) : Byte := if b = 1#8 then 1#8 else 0#8

/-- `dec10(hi, lo)` (R106): only bits 1:0 of the first byte contribute. -/
def dec10 (hi lo : Byte) : Sample := BitVec.ofNat 10 (hi.toNat % 4 * 256 + lo.toNat)

/-- An 8-bit sample in a 10-bit register: zero-extended (R107, R202). -/
def zext10 (b : Byte) : Sample := b.setWidth 10

/-- The bytes of a payload of `BRLYON`, by `BRLYON_FORM` (R186), for the sub-command byte `sub` = 107 + `INDEX`. -/
def brlyonPayload (form : BrlyonForm) (sub bank : Byte) : List Byte :=
  match form with
  | .table4 => [cmdPrefix, 48#8, sub, bank]
  | .sym3 => [cmdPrefix, sub, bank]

/-- The number of payload bytes `AD10ONE` requests (R203). -/
def ad10oneCount (n : Ad10Nreq) : Nat :=
  match n with
  | .one => 1
  | .two => 2

end Sys2Proof.Machine
end

