-- ==== Sys2Proof/Machine/Ops.lean ====
section
/-! DEFINITION. The named operations over the buffers and registers, and the actions shared by the ops: acceptance, completion,
ending with an error, build, check, payload copy, start of an exchange (spec/40_codec.md R130 to R139,
spec/41_exchange.md R151, R157, R158, spec/60_exceptions.md R236). -/

namespace Sys2Proof.Machine

/-! ## Buffers -/

/-- The number of bytes of a buffer (R9, R40 to R43). -/
def bufCap : BufId → Nat
  | .pbuf => 255
  | .txbuf => 258
  | .rxbuf => 258
  | .resbuf => 255

/-- The register number of a buffer's byte 0 (R34). -/
def bufBase : BufId → Nat
  | .pbuf => 0x100
  | .txbuf => 0x200
  | .rxbuf => 0x400
  | .resbuf => 0x600

/-- The buffer of a name. -/
def getBuf (m : Memory) : BufId → Buffer
  | .pbuf => m.pbuf
  | .txbuf => m.txbuf
  | .rxbuf => m.rxbuf
  | .resbuf => m.resbuf

/-- The memory with one buffer replaced. -/
def putBuf (m : Memory) (b : BufId) (x : Buffer) : Memory :=
  match b with
  | .pbuf => { m with pbuf := x }
  | .txbuf => { m with txbuf := x }
  | .rxbuf => { m with rxbuf := x }
  | .resbuf => { m with resbuf := x }

/-- The value listed for an index, if one is. -/
def findCell : List Host.Cell → Nat → Option Byte
  | [], _ => none
  | (k, v) :: rest, i => if k = i then some v else findCell rest i

/-- The list with `v` at index `i`, indices kept strictly rising. -/
def setCell : List Host.Cell → Nat → Byte → List Host.Cell
  | [], i, v => [(i, v)]
  | (k, w) :: rest, i, v =>
    if i < k then (i, v) :: (k, w) :: rest
    else if i = k then (i, v) :: rest
    else (k, w) :: setCell rest i v

/-- The cells of consecutive bytes from index `k`. -/
def cellsFrom : Nat → List Byte → List Host.Cell
  | _, [] => []
  | k, b :: bs => (k, b) :: cellsFrom (k + 1) bs

/-- Read of byte `i` of a buffer. An index that holds no value reads as a free one (R44, U16; log entry 3). -/
def readByte (m : Memory) (b : BufId) (i : Nat) : Byte :=
  match findCell (getBuf m b).cells i with
  | some v => v
  | none => Config.freeByte (getBuf m b).era (bufBase b + i)

/-- `BUF[lo .. lo+n)` as a byte sequence (R11). -/
def readBytes (m : Memory) (b : BufId) (lo : Nat) : Nat → List Byte
  | 0 => []
  | n + 1 => readByte m b lo :: readBytes m b (lo + 1) n

/-- Write of byte `i` of a buffer. An index outside the buffer does not exist (R44): nothing is written. -/
def writeByte (m : Memory) (b : BufId) (i : Nat) (v : Byte) : Memory :=
  if i < bufCap b then
    putBuf m b { cells := setCell (getBuf m b).cells i v, era := (getBuf m b).era }
  else m

/-- The buffer comes to hold exactly the bytes `p` from index 0, the bytes above them being unspecified from here on
(R40, R132, R138: "Bytes ... at or above ... are unspecified"). -/
def loadBytes (m : Memory) (b : BufId) (p : List Byte) : Memory :=
  putBuf m b { cells := cellsFrom 0 (p.take (bufCap b)), era := (getBuf m b).era + 1 }

/-- All contents become unspecified (R53, R222, R270). -/
def forgetAll (m : Memory) : Memory :=
  { pbuf := Buffer.unspecified (m.pbuf.era + 1), txbuf := Buffer.unspecified (m.txbuf.era + 1),
    rxbuf := Buffer.unspecified (m.rxbuf.era + 1), resbuf := Buffer.unspecified (m.resbuf.era + 1) }

/-- Indices strictly rising from a bound on, and below the capacity. -/
def cellsWf (cap : Nat) : Nat → List Host.Cell → Bool
  | _, [] => true
  | lo, (k, _) :: rest => decide (lo ≤ k) && decide (k < cap) && cellsWf cap (k + 1) rest

/-- The one canonical form of the memory: each buffer's indices strictly rising and inside the buffer. An unlisted index
holds no value, so no entry equals what an unlisted index holds. -/
def Memory.wf (m : Memory) : Bool :=
  cellsWf (bufCap .pbuf) 0 m.pbuf.cells && cellsWf (bufCap .txbuf) 0 m.txbuf.cells
    && cellsWf (bufCap .rxbuf) 0 m.rxbuf.cells && cellsWf (bufCap .resbuf) 0 m.resbuf.cells

/-! ## The block's sequences -/

/-- `PBUF[0..PLEN)`. -/
def payloadBytes (b : Block) : List Byte := readBytes b.mem .pbuf 0 b.plen.toNat

/-- `TXBUF[0..TXLEN)`. -/
def requestBytes (b : Block) : List Byte := readBytes b.mem .txbuf 0 b.txlen.toNat

/-- `RXBUF[0..RXLEN)`. -/
def responseBytes (b : Block) : List Byte := readBytes b.mem .rxbuf 0 b.rxlen.toNat

/-! ## Acceptance, completion, error -/

/-- The machine with its FE replaced. -/
def withBlk (s : State) (b : Block) : State := { s with blk := b }

/-- The acceptance actions (R35, R130): `CMD <- c`, `DONE <- 0`, `OK <- 0`, `ERR <- 0`, `ERRINFO <- 0`. -/
def accept (c : Byte) (b : Block) : Block :=
  { b with cmd := c, err := .none, errinfo := 0, status := { b.status with done := false, ok := false } }

/-- `complete_ok` (R130). -/
def completeOk (b : Block) : Block :=
  { b with phase := .idle, status := { b.status with busy := false, done := true, ok := true } }

/-- Whether an error of kind `k` sets `STALE` (R31, R236). -/
def setsStale (k : ErrKind) (b : Block) : Bool :=
  (decide (k = .timeout ∨ k = .io) && decide (0 < b.txcnt.toNat) && isExchangeCode b.cmd) || decide (k = .invalid)

/-- `raise Kind(info)` (R236): what every error does, in the step that raises it. The block has no other exception and no
return from one (R243). -/
def raise (k : ErrKind) (info : Nat) (b : Block) : Block :=
  { b with
    err := k, errinfo := if k = .io then info else 0, rlen := 0, phase := .idle,
    status := { b.status with busy := false, done := true, ok := false, stale := b.status.stale || setsStale k b } }

/-- What a write of an illegal op code does (R113): accepted, and ended at once with `ARG`. -/
def illegalOp (c : Byte) (b : Block) : Block := raise .arg 0 (accept c b)

/-- Every register at its reset value, the buffers unspecified (R53, R222, R270). -/
def resetBlock (b : Block) : Block := Block.resetWith (forgetAll b.mem)

/-! ## The codec actions -/

/-- `do_build` (R132): `TXBUF[0..TXLEN)` becomes `frame(PBUF[0..PLEN))`. -/
def doBuild (b : Block) : Block :=
  { b with
    mem := loadBytes b.mem .txbuf (frame (payloadBytes b)),
    txlen := BitVec.ofNat 9 (b.plen.toNat + 3) }

/-- `do_check` (R135). -/
def doCheck (b : Block) : Block := { b with vflags := checkFlags (responseBytes b) }

/-- `do_payload` (R138): `RESBUF[i] <- RXBUF[2+i]` for `i` below `RXLEN` - 3, `RLEN <- RXLEN - 3`. -/
def doPayload (b : Block) : Block :=
  { b with
    mem := loadBytes b.mem .resbuf (readBytes b.mem .rxbuf 2 (b.rxlen.toNat - 3)),
    rlen := BitVec.ofNat 8 (b.rxlen.toNat - 3) }

/-! ## Starting an exchange -/

/-- A device command's payload goes to `PBUF[0..PLEN)` (R40, R84 "command encode"). -/
def setPayload (p : List Byte) (b : Block) : Block :=
  { b with mem := loadBytes b.mem .pbuf p, plen := BitVec.ofNat 9 p.length }

/-- `start_xchg(explen)` (R151). -/
def startXchg (explen : Nat) (b : Block) : Block :=
  { b with
    txcnt := 0, rxcnt := 0, rxlen := BitVec.ofNat 9 explen, vflags := VFlags.clear, phase := .tx,
    status := { b.status with busy := true } }

/-- The acceptance part of `exec_cmd` (R157): build, then expect 4 bytes. -/
def startCmd (b : Block) : Block := startXchg ackTotal (doBuild b)

/-- The acceptance part of `exec_read(N)` (R158): build, then expect `N` + 3 bytes. -/
def startRead (n : Nat) (b : Block) : Block := startXchg (n + 3) (doBuild b)

/-- The finish of a command-only execution (R157): `RLEN <- 0`; the acknowledgment byte is not examined. -/
def finishAck (b : Block) : Block := completeOk { b with rlen := 0 }

/-- Byte `i` of `RESBUF`. -/
def resByte (b : Block) (i : Nat) : Byte := readByte b.mem .resbuf i

/-! ## The relay family's encode action -/

/-- The payload `[254, sub, lsb, msb]` of relay index `n` (R180). -/
def relayPayload (sub : Byte) (n : RelayIdx) : List Byte :=
  [cmdPrefix, sub, (encRelay n).1, (encRelay n).2]

/-- `RELAY` = 0 is refused with `ARG`; otherwise the payload is assembled and the exchange started by `go` (R180). -/
def relayOp (sub : Byte) (go : Block → Block) (b : Block) : Block :=
  if b.relay = 0 then raise .arg 0 b else go (setPayload (relayPayload sub b.relay) b)

/-- The payload-length guard (R133): `PLEN` > 255 is refused with `ARG`. -/
def guardPlen (go : Block → Block) (b : Block) : Block :=
  if 255 < b.plen.toNat then raise .arg 0 b else go b

/-- An op whose payload carries a constant plus an operand in one byte: refused with `ARG` when the sum does not fit
(R103, R104). -/
def offsetOp (base : Nat) (x : Byte) (go : Byte → Block → Block) (b : Block) : Block :=
  match offsetByte base x with
  | none => raise .arg 0 b
  | some sub => go sub b

end Sys2Proof.Machine
end

