-- ==== Sys2Proof/Machine/Adc.lean ====
section
/-! DEFINITION. The ADC read ops (spec/43_adc_commands.md): the acceptance step of each, and its decode actions. -/

namespace Sys2Proof.Machine

/-- `AD8ONE` (R200, R201). -/
def execAd8one (s : State) : Host.Outcome State Fault Refusal :=
  let b := accept (encode .ad8one) s.blk
  .next (withBlk s (offsetOp 149 b.chan (fun sub c => startRead 1 (setPayload [cmdPrefix, sub] c)) b))

/-- `AD8ONE`, decode actions (R201): `RES <- RESBUF[0]`. -/
def finishAd8one (b : Block) : Block :=
  let t := doPayload b
  completeOk { t with res := resByte t 0 }

/-- `AD8ALL` (R202). -/
def execAd8all (s : State) : Host.Outcome State Fault Refusal :=
  let b := accept (encode .ad8all) s.blk
  .next (withBlk s (startRead 8 (setPayload [cmdPrefix, 166#8] b)))

/-- `AD8ALL`, decode actions (R202): `AD[i] <- zext_10(RESBUF[i])`. -/
def finishAd8all (b : Block) : Block :=
  let t := doPayload b
  completeOk { t with
    ad := #v[zext10 (resByte t 0), zext10 (resByte t 1), zext10 (resByte t 2), zext10 (resByte t 3),
             zext10 (resByte t 4), zext10 (resByte t 5), zext10 (resByte t 6), zext10 (resByte t 7)] }

/-- `AD10ONE` (R200, R203): the request of `AD8ONE`; it expects `AD10ONE_NREQ` + 3 bytes. -/
def execAd10one (s : State) : Host.Outcome State Fault Refusal :=
  let b := accept (encode .ad10one) s.blk
  .next (withBlk s
    (offsetOp 149 b.chan
      (fun sub c => startRead (ad10oneCount s.cfg.ad10oneNreq) (setPayload [cmdPrefix, sub] c)) b))

/-- `AD10ONE`, decode actions (R203): `SHORT` when the payload has fewer than 2 bytes. An op that fails leaves `RESBUF` as an
earlier op left it (R242; log entry 7), so the payload copy does not outlive `SHORT`. -/
def finishAd10one (b : Block) : Block :=
  let t := doPayload b
  if t.rlen.toNat < 2 then raise .short 0 b
  else completeOk { t with ad := t.ad.set 0 (dec10 (resByte t 0) (resByte t 1)) }

/-- `AD10ALL` (R204): the request of `AD8ALL`. -/
def execAd10all (s : State) : Host.Outcome State Fault Refusal :=
  let b := accept (encode .ad10all) s.blk
  .next (withBlk s (startRead 16 (setPayload [cmdPrefix, 166#8] b)))

/-- Sample `i` of a 16-byte payload: the byte pair `(2i, 2i+1)` (R204). -/
def pairSample (b : Block) (i : Nat) : Sample := dec10 (resByte b (2 * i)) (resByte b (2 * i + 1))

/-- `AD10ALL`, decode actions (R204). -/
def finishAd10all (b : Block) : Block :=
  let t := doPayload b
  completeOk { t with
    ad := #v[pairSample t 0, pairSample t 1, pairSample t 2, pairSample t 3,
             pairSample t 4, pairSample t 5, pairSample t 6, pairSample t 7] }

end Sys2Proof.Machine
end

