-- ==== Sys2Proof/Machine/CodecOps.lean ====
section
/-! DEFINITION. The codec ops `CSUM`, `BUILD`, `CHECK`, `PAYLD` (spec/40_codec.md): pure, accepted and completed in one step. -/

namespace Sys2Proof.Machine

/-- `CSUM` (R131, R133). -/
def execCsum (s : State) : Host.Outcome State Fault Refusal :=
  .next (withBlk s (guardPlen (fun b => completeOk { b with res := csum8 (payloadBytes b), rlen := 0 })
    (accept (encode .csum) s.blk)))

/-- `BUILD` (R134, R133). -/
def execBuild (s : State) : Host.Outcome State Fault Refusal :=
  .next (withBlk s (guardPlen (fun b => completeOk { doBuild b with rlen := 0 })
    (accept (encode .build) s.blk)))

/-- The body of `CHECK` after acceptance (R136, R137). -/
def checkOp (b : Block) : Block :=
  if 258 < b.rxlen.toNat then raise .arg 0 { b with vflags := VFlags.clear }
  else completeOk { doCheck b with rlen := 0 }

/-- `CHECK` (R136): it completes with `OK` = 1 whether the buffer is valid or not. -/
def execCheck (s : State) : Host.Outcome State Fault Refusal :=
  .next (withBlk s (checkOp (accept (encode .check) s.blk)))

/-- The body of `PAYLD` after acceptance (R139, R140). -/
def payldOp (b : Block) : Block :=
  if b.vflags.valid then completeOk (doPayload b) else raise .arg 0 b

/-- `PAYLD` (R140). -/
def execPayld (s : State) : Host.Outcome State Fault Refusal :=
  .next (withBlk s (payldOp (accept (encode .payld) s.blk)))

end Sys2Proof.Machine
end

