-- ==== Sys2Proof/Machine/Raw.lean ====
section
/-! DEFINITION. The raw exchange ops `RAWCMD`, `RAWRD` (spec/41_exchange.md R159, R160): the acceptance step of each, and its
decode actions, which the last `RX` step runs (R154). -/

namespace Sys2Proof.Machine

/-- `RAWCMD` (R159). -/
def execRawcmd (s : State) : Host.Outcome State Fault Refusal :=
  .next (withBlk s (guardPlen startCmd (accept (encode .rawcmd) s.blk)))

/-- `RAWCMD`, decode actions (R157). -/
def finishRawcmd (b : Block) : Block := finishAck b

/-- `RAWRD` (R160): it expects `NREQ` + 3 bytes. -/
def execRawrd (s : State) : Host.Outcome State Fault Refusal :=
  .next (withBlk s (guardPlen (fun b => startRead b.nreq.toNat b) (accept (encode .rawrd) s.blk)))

/-- `RAWRD`, decode actions (R158). -/
def finishRawrd (b : Block) : Block := completeOk (doPayload b)

end Sys2Proof.Machine
end

