-- ==== Sys2Proof/Machine/Relay.lean ====
section
/-! DEFINITION. The relay and bank ops (spec/42_relay_commands.md): the acceptance step of each, and its decode actions. -/

namespace Sys2Proof.Machine

/-- `RLYON` (R181). -/
def execRlyon (s : State) : Host.Outcome State Fault Refusal :=
  .next (withBlk s (relayOp 48#8 startCmd (accept (encode .rlyon) s.blk)))

/-- `RLYON`, decode actions (R157). -/
def finishRlyon (b : Block) : Block := finishAck b

/-- `RLYOFF` (R182). -/
def execRlyoff (s : State) : Host.Outcome State Fault Refusal :=
  .next (withBlk s (relayOp 47#8 startCmd (accept (encode .rlyoff) s.blk)))

/-- `RLYOFF`, decode actions (R157). -/
def finishRlyoff (b : Block) : Block := finishAck b

/-- `RLYGET` (R183). -/
def execRlyget (s : State) : Host.Outcome State Fault Refusal :=
  .next (withBlk s (relayOp 44#8 (startRead 1) (accept (encode .rlyget) s.blk)))

/-- `RLYGET`, decode actions (R183): `RES <- dec_bool(RESBUF[0])`. -/
def finishRlyget (b : Block) : Block :=
  let t := doPayload b
  completeOk { t with res := decBool (resByte t 0) }

/-- `BNKSET` (R184): status first, then bank. -/
def execBnkset (s : State) : Host.Outcome State Fault Refusal :=
  let b := accept (encode .bnkset) s.blk
  .next (withBlk s (startCmd (setPayload [cmdPrefix, 140#8, b.bstat, b.bank] b)))

/-- `BNKSET`, decode actions (R157). -/
def finishBnkset (b : Block) : Block := finishAck b

/-- `BNKGET` (R185). -/
def execBnkget (s : State) : Host.Outcome State Fault Refusal :=
  let b := accept (encode .bnkget) s.blk
  .next (withBlk s (startRead 1 (setPayload [cmdPrefix, 124#8, b.bank] b)))

/-- `BNKGET`, decode actions (R185): `RES <- RESBUF[0]`. -/
def finishBnkget (b : Block) : Block :=
  let t := doPayload b
  completeOk { t with res := resByte t 0 }

/-- `BRLYON` (R186): refused when 107 + `INDEX` exceeds 255; the payload's shape is `BRLYON_FORM`. -/
def execBrlyon (s : State) : Host.Outcome State Fault Refusal :=
  let b := accept (encode .brlyon) s.blk
  .next (withBlk s
    (offsetOp 107 b.index (fun sub c => startCmd (setPayload (brlyonPayload s.cfg.brlyonForm sub c.bank) c)) b))

/-- `BRLYON`, decode actions (R157). -/
def finishBrlyon (b : Block) : Block := finishAck b

/-- `BRLYOFF` (R187): refused when 99 + `INDEX` exceeds 255. -/
def execBrlyoff (s : State) : Host.Outcome State Fault Refusal :=
  let b := accept (encode .brlyoff) s.blk
  .next (withBlk s (offsetOp 99 b.index (fun sub c => startCmd (setPayload [cmdPrefix, sub, c.bank] c)) b))

/-- `BRLYOFF`, decode actions (R157). -/
def finishBrlyoff (b : Block) : Block := finishAck b

end Sys2Proof.Machine
end

