-- ==== Sys2Proof/Machine/System.lean ====
section
/-! DEFINITION. The system ops `NOP`, `CLRSTALE`, `SRESET` (spec/44_system_ops.md). All are pure. -/

namespace Sys2Proof.Machine

/-- `NOP` (R220). -/
def execNop (s : State) : Host.Outcome State Fault Refusal :=
  .next (withBlk s (completeOk (accept (encode .nop) s.blk)))

/-- `STATUS.STALE <- 0` (R221). -/
def clearStale (b : Block) : Block := { b with status := { b.status with stale := false } }

/-- `CLRSTALE` (R221): it discards nothing from the stream. -/
def execClrstale (s : State) : Host.Outcome State Fault Refusal :=
  .next (withBlk s (completeOk (clearStale (accept (encode .clrstale) s.blk))))

/-- `SRESET` (R222): the one op that does not end with `complete_ok`; `CMD` reads 0x00 afterwards. -/
def execSreset (s : State) : Host.Outcome State Fault Refusal :=
  .next (withBlk s (resetBlock s.blk))

end Sys2Proof.Machine
end

