-- ==== Sys2Proof/Machine/Dispatch.lean ====
section
/-! DEFINITION. One arm per op: the acceptance of the op (spec/10_state.md R35). For a pure op that is its whole effect; for an
exchange op it is the acceptance step, after which the FE's own steps carry the exchange (spec/41_exchange.md R151). -/

namespace Sys2Proof.Machine

def exec (i : Instr) (s : State) : Host.Outcome State Fault Refusal :=
  match i with
  | .nop => Sys2Proof.Machine.execNop s
  | .csum => Sys2Proof.Machine.execCsum s
  | .build => Sys2Proof.Machine.execBuild s
  | .check => Sys2Proof.Machine.execCheck s
  | .payld => Sys2Proof.Machine.execPayld s
  | .rawcmd => Sys2Proof.Machine.execRawcmd s
  | .rawrd => Sys2Proof.Machine.execRawrd s
  | .rlyon => Sys2Proof.Machine.execRlyon s
  | .rlyoff => Sys2Proof.Machine.execRlyoff s
  | .rlyget => Sys2Proof.Machine.execRlyget s
  | .bnkset => Sys2Proof.Machine.execBnkset s
  | .bnkget => Sys2Proof.Machine.execBnkget s
  | .brlyon => Sys2Proof.Machine.execBrlyon s
  | .brlyoff => Sys2Proof.Machine.execBrlyoff s
  | .ad8one => Sys2Proof.Machine.execAd8one s
  | .ad8all => Sys2Proof.Machine.execAd8all s
  | .ad10one => Sys2Proof.Machine.execAd10one s
  | .ad10all => Sys2Proof.Machine.execAd10all s
  | .clrstale => Sys2Proof.Machine.execClrstale s
  | .sreset => Sys2Proof.Machine.execSreset s

end Sys2Proof.Machine
end

