-- ==== Sys2Proof/Machine/HostPort.lean ====
section
/-! DEFINITION. HOST's access to the register space (spec/10_state.md R34, R35, R39; spec/20_memory.md R74). -/

namespace Sys2Proof.Machine

/-- A byte whose value the spec leaves unspecified, as HOST's next read gives it (U16; log entry 4). -/
def unspecifiedByte (s : State) : Nat := Config.freeRead s.readCount % 256

/-- A byte of `RXBUF` as HOST reads it: during `RX`, bytes at or above `RXCNT` are unspecified (R39, U16; log entry 4). -/
def readRxbuf (s : State) (i : Nat) : Nat :=
  if s.blk.phase = .rx ∧ s.blk.rxcnt.toNat ≤ i then unspecifiedByte s else (readByte s.blk.mem .rxbuf i).toNat

/-- A byte of `RESBUF` as HOST reads it: bytes at or above `RLEN` are unspecified (R43, U16; log entries 4 and 11). -/
def readResbuf (s : State) (i : Nat) : Nat :=
  if s.blk.rlen.toNat ≤ i then unspecifiedByte s else (readByte s.blk.mem .resbuf i).toNat

/-- The value of a register, zero-extended (R34). -/
def readReg (s : State) : Reg → Nat
  | .cmd => s.blk.cmd.toNat
  | .status => statusByte s.blk.status
  | .err => errCode s.blk.err
  | .errinfo => s.blk.errinfo
  | .vflags => vflagsByte s.blk.vflags
  | .phase => phaseCode s.blk.phase
  | .relay => s.blk.relay.toNat
  | .bank => s.blk.bank.toNat
  | .bstat => s.blk.bstat.toNat
  | .index => s.blk.index.toNat
  | .chan => s.blk.chan.toNat
  | .nreq => s.blk.nreq.toNat
  | .plen => s.blk.plen.toNat
  | .txlen => s.blk.txlen.toNat
  | .txcnt => s.blk.txcnt.toNat
  | .rxlen => s.blk.rxlen.toNat
  | .rxcnt => s.blk.rxcnt.toNat
  | .rlen => s.blk.rlen.toNat
  | .res => s.blk.res.toNat
  | .ad i => (s.blk.ad[i]).toNat
  | .pbuf i => (readByte s.blk.mem .pbuf i.val).toNat
  | .txbuf i => (readByte s.blk.mem .txbuf i.val).toNat
  | .rxbuf i => readRxbuf s i.val
  | .resbuf i => readResbuf s i.val

/-- The output port `done`: `STATUS.DONE` at every step (R52, R238). -/
def doneOut (s : State) : Bool := s.blk.status.done

/-- What a HOST read of a register number returns; an unmapped number returns an unspecified value (R34, U17). -/
def readNumber (s : State) (n : Nat) : Nat :=
  match regOfNumber n with
  | some r => readReg s r
  | none => Config.freeRead s.readCount

/-- A HOST read (R34): no side effect on the block. -/
def hostRead (n : Nat) (s : State) : State :=
  { s with reads := s.reads ++ [readNumber s n], readCount := s.readCount + 1 }

/-- `STATUS.HOSTERR <- 1`: a write that broke an access rule has no other effect (R32). -/
def hostError (b : Block) : Block := { b with status := { b.status with hosterr := true } }

/-- A write HOST may make only while `BUSY` = 0 (R32, R34). -/
def unlessBusy (b c : Block) : Block := if b.status.busy then hostError b else c

/-- A HOST write of `v` to a register other than an accepted `CMD` (R32 to R35, R42): the value is taken modulo 2^width. -/
def writeReg (r : Reg) (v : Nat) (b : Block) : Block :=
  match r with
  | .cmd => hostError b
  | .status => hostError b
  | .err => hostError b
  | .errinfo => hostError b
  | .vflags => hostError b
  | .phase => hostError b
  | .relay => { b with relay := BitVec.ofNat 16 v }
  | .bank => { b with bank := BitVec.ofNat 8 v }
  | .bstat => { b with bstat := BitVec.ofNat 8 v }
  | .index => { b with index := BitVec.ofNat 8 v }
  | .chan => { b with chan := BitVec.ofNat 8 v }
  | .nreq => { b with nreq := BitVec.ofNat 8 v }
  | .plen => { b with plen := BitVec.ofNat 9 v }
  | .txlen => hostError b
  | .txcnt => hostError b
  | .rxlen => unlessBusy b { b with rxlen := BitVec.ofNat 9 v, vflags := VFlags.clear }
  | .rxcnt => hostError b
  | .rlen => hostError b
  | .res => hostError b
  | .ad _ => hostError b
  | .pbuf i => { b with mem := writeByte b.mem .pbuf i.val (BitVec.ofNat 8 v) }
  | .txbuf _ => hostError b
  | .rxbuf i =>
    unlessBusy b { b with mem := writeByte b.mem .rxbuf i.val (BitVec.ofNat 8 v), vflags := VFlags.clear }
  | .resbuf _ => hostError b

/-- A HOST write by register number that starts no op; an unmapped number is ignored and sets `HOSTERR` (R32, R34). -/
def writeNumber (n v : Nat) (b : Block) : Block :=
  match regOfNumber n with
  | some r => writeReg r v b
  | none => hostError b

/-- Whether a HOST write starts an op: it writes `CMD` and `BUSY` = 0 (R35). -/
def startsOp (n : Nat) (b : Block) : Bool := decide (regOfNumber n = some .cmd) && !b.status.busy

end Sys2Proof.Machine
end

