-- ==== Sys2Proof/Machine/Sequencer.lean ====
section
/-! DEFINITION. The exchange sequencer: the FE's `TX` and `RX` steps and the finish action (spec/41_exchange.md R152 to R154). -/

namespace Sys2Proof.Machine

/-- The decode actions of the op in flight and its completion (R154). A pure op is never in flight (R28); for one, which no
reachable state meets here, there is no decode action (log entry 8). -/
def finishOp (i : Instr) (b : Block) : Block :=
  match i with
  | .nop => completeOk b
  | .csum => completeOk b
  | .build => completeOk b
  | .check => completeOk b
  | .payld => completeOk b
  | .rawcmd => finishRawcmd b
  | .rawrd => finishRawrd b
  | .rlyon => finishRlyon b
  | .rlyoff => finishRlyoff b
  | .rlyget => finishRlyget b
  | .bnkset => finishBnkset b
  | .bnkget => finishBnkget b
  | .brlyon => finishBrlyon b
  | .brlyoff => finishBrlyoff b
  | .ad8one => finishAd8one b
  | .ad8all => finishAd8all b
  | .ad10one => finishAd10one b
  | .ad10all => finishAd10all b
  | .clrstale => completeOk b
  | .sreset => completeOk b

/-- The finish action (R154): check, `INVALID` if not valid, else the op's decode actions. The op is the one `CMD` holds,
which cannot change while it is in flight (R35). -/
def finish (b : Block) : Block :=
  let c := doCheck b
  if c.vflags.valid then
    match decode c.cmd with
    | .op i => finishOp i c
    | .illegalOpcode _ => completeOk c
  else raise .invalid 0 c

/-- The `IOERR_W`-bit code of a stream error (R66, R72). -/
def errBits (cfg : Config) (e : Nat) : Nat := e % 2 ^ cfg.ioErrW

/-- `StreamWrite(b)` (R67). -/
def streamWrite (st : Stream) (b : Byte) : Stream := { st with sent := st.sent ++ [b] }

/-- The RX event a stream's choice makes (R66, R68): the oldest byte it holds; with none to deliver it is `Empty`. -/
def rxEvent (st : Stream) : RxOffer → RxEvent
  | .empty => .empty
  | .err e => .err e
  | .deliver =>
    match st.held with
    | [] => .empty
    | b :: _ => .byte b

/-- The stream after its oldest byte was read; the read is destructive (R68). -/
def streamTake (st : Stream) : Stream := { st with held := st.held.tail }

/-- The FE's part of sending one byte (R152). -/
def txAdvance (b : Block) : Block :=
  { b with txcnt := b.txcnt + 1, phase := if b.txcnt + 1 = b.txlen then .rx else b.phase }

/-- A `TX` step (R152): `cancel`, then a stream error, then the transfer of one byte (R240). -/
def txStep (tx : TxEvent) (s : State) : State :=
  if s.cancel then withBlk s (raise .timeout 0 s.blk)
  else
    match tx with
    | .err e => withBlk s (raise .io (errBits s.cfg e) s.blk)
    | .ready =>
      { s with
        stream := streamWrite s.stream (readByte s.blk.mem .txbuf s.blk.txcnt.toNat),
        blk := txAdvance s.blk }
    | .busy => s

/-- The FE's part of receiving one byte (R153): store, count, and finish in the same step if it was the last. -/
def rxStore (v : Byte) (b : Block) : Block :=
  let c := { b with mem := writeByte b.mem .rxbuf b.rxcnt.toNat v, rxcnt := b.rxcnt + 1 }
  if c.rxcnt = c.rxlen then finish c else c

/-- An `RX` step (R153): `cancel`, then a stream error, then the transfer of one byte (R240). -/
def rxStep (rx : RxOffer) (s : State) : State :=
  if s.cancel then withBlk s (raise .timeout 0 s.blk)
  else
    match rxEvent s.stream rx with
    | .err e => withBlk s (raise .io (errBits s.cfg e) s.blk)
    | .byte v => { s with stream := streamTake s.stream, blk := rxStore v s.blk }
    | .empty => s

/-- One step of the FE (R24, R156): the channel it is not using is not looked at (R69); an idle block takes no step (R255). -/
def feStep (tx : TxEvent) (rx : RxOffer) (s : State) : State :=
  match s.blk.phase with
  | .idle => s
  | .tx => txStep tx s
  | .rx => rxStep rx s

end Sys2Proof.Machine
end

