-- ==== Sys2Proof/Machine/Turns.lean ====
section
/-! DEFINITION. The moves of the agents (spec/00_scope.md R7, spec/20_memory.md R73, spec/70_reset_and_hazards.md R270): what the
next move does, up to the op it starts. -/

namespace Sys2Proof.Machine

/-- What the next move comes to: it is over, or it is the acceptance of an op. -/
inductive Action where
  | ended (s : State)
  | start (i : Instr) (s : State)

/-- The input `rst` acts on the block (R270): while it is 1 the block is put in the reset state. -/
def settle (s : State) : State := if s.rst then withBlk s (resetBlock s.blk) else s

/-- A HOST write, its access already taken from the program. -/
def writeMove (n v : Nat) (s : State) : Action :=
  if startsOp n s.blk then
    match decode (BitVec.ofNat 8 v) with
    | .op i => .start i s
    | .illegalOpcode c => .ended (withBlk s (illegalOp c s.blk))
  else .ended (withBlk s (writeNumber n v s.blk))

/-- HOST's move: the next access of its program (R115). `WAIT` ends when `STATUS.DONE` reads 1. -/
def hostMove (s : State) : Action :=
  match s.host with
  | [] => .ended s
  | .wr n v :: rest => writeMove n v { s with host := rest }
  | .rd n :: rest => .ended (hostRead n { s with host := rest })
  | .wait :: rest => if s.blk.status.done then .ended { s with host := rest } else .ended s

/-- The accesses HOST has left when one met `rst` = 1: a read or write that is not accepted is lost, `WAIT` goes on waiting
(R270, U22; log entry 9). -/
def hostLost : List HostOp → List HostOp
  | [] => []
  | .wr _ _ :: rest => rest
  | .rd _ :: rest => rest
  | .wait :: rest => .wait :: rest

/-- One move. While `rst` = 1 no HOST access is accepted and the FE takes no step (R270). -/
def move (t : Turn) (s : State) : Action :=
  match t with
  | .host => if s.rst then .ended (settle { s with host := hostLost s.host }) else hostMove s
  | .fe tx rx => if s.rst then .ended (settle s) else .ended (feStep tx rx s)
  | .cancel level => .ended (settle { s with cancel := level })
  | .rst level => .ended (settle { s with rst := level })
  | .arrive b => .ended (settle { s with stream := { s.stream with held := s.stream.held ++ [b] } })
  | .drain => .ended (settle { s with stream := { s.stream with held := [] } })

/-- The next move of the agents; with none to come nothing moves (R255; log entry 2). -/
def nextAction (s : State) : Action :=
  match s.turns with
  | [] => .ended (settle s)
  | t :: rest => move t { s with turns := rest }

end Sys2Proof.Machine
end

