-- ==== Sys2Proof/Machine/Step.lean ====
section
/-! DEFINITION. One step of the machine: the next move of the agents, and the op it starts, if it starts one. -/

namespace Sys2Proof.Machine

/-- One atomic step (spec/20_memory.md R73). -/
def step (s : State) : Host.Outcome State Fault Refusal :=
  match nextAction s with
  | .ended t => .next t
  | .start i t => exec i t

/-- The machine about to run the op of a table word: HOST's next access writes `w` to `CMD`, the next move is HOST's, `rst`
is released and the block idle, which is when a write of `CMD` is accepted (R35, R270). The block fetches nothing (R24):
its program is HOST's list of accesses, placed from outside (log entry 6). -/
def State.withFetchWord (s : State) (_nbits w : Nat) : State :=
  { s with
    rst := false, host := .wr 0x00 w :: s.host, turns := .host :: s.turns,
    blk := { s.blk with phase := .idle, status := { s.blk.status with busy := false } } }

end Sys2Proof.Machine
end

