-- ==== Sys2Proof/Machine/Results.lean ====
section
/-! DEFINITION. The result of the last op as a claim may read it (spec/10_state.md R22, R30, spec/70_reset_and_hazards.md R282):
only after the op ended with `OK` = 1, and only from the registers the op's rule writes. The registers themselves keep
older values after an error (spec/60_exceptions.md R242); those are no result, and there is none here. -/

namespace Sys2Proof.Machine

/-- A typed result: what an op's rule writes to `RES`, to `RESBUF[0..RLEN)` and to the slots of `AD` from 0 on (R22, R23). -/
structure OpResult where
  res : Option Byte
  bytes : List Byte
  ad : List Sample
  deriving DecidableEq, Repr

/-- The result of an op that returns nothing in the result registers. -/
def OpResult.nothing : OpResult := { res := none, bytes := [], ad := [] }

/-- The result of an op that returns a payload, with what its decode actions wrote (R138, R158). -/
def payloadResult (res : Option Byte) (ad : List Sample) (b : Block) : OpResult :=
  { res := res, bytes := readBytes b.mem .resbuf 0 b.rlen.toNat, ad := ad }

/-- The result registers of each op (R23), once it ended without error. -/
def opResult (i : Instr) (b : Block) : OpResult :=
  match i with
  | .nop => .nothing
  | .csum => { OpResult.nothing with res := some b.res }
  | .build => .nothing
  | .check => .nothing
  | .payld => payloadResult none [] b
  | .rawcmd => .nothing
  | .rawrd => payloadResult none [] b
  | .rlyon => .nothing
  | .rlyoff => .nothing
  | .rlyget => payloadResult (some b.res) [] b
  | .bnkset => .nothing
  | .bnkget => payloadResult (some b.res) [] b
  | .brlyon => .nothing
  | .brlyoff => .nothing
  | .ad8one => payloadResult (some b.res) [] b
  | .ad8all => payloadResult none b.ad.toList b
  | .ad10one => payloadResult none [b.ad[0]] b
  | .ad10all => payloadResult none b.ad.toList b
  | .clrstale => .nothing
  | .sreset => .nothing

/-- The result of the op `CMD` names (R35), whatever its outcome; a value that is no op has none (R113). Not to be read
directly: `resultOf` is the view. -/
def cmdResult (b : Block) : OpResult :=
  match decode b.cmd with
  | .op i => opResult i b
  | .illegalOpcode _ => .nothing

/-- The result of the last op: there is one only with `DONE` = 1 and `OK` = 1 (R30, R282). -/
def resultOf (b : Block) : Option OpResult :=
  if b.status.done ∧ b.status.ok then some (cmdResult b) else none

end Sys2Proof.Machine
end

