-- ==== Sys2Proof/Safety.lean ====
section
/-! DEFINITION. The terms in which claims about the machine are stated: the invariants of a run, what an accepted op leaves, what
the end of an exchange leaves, and the spec's command table (spec/30_encoding.md R109) as data of its own, written beside the
meanings and not through them. -/

namespace Sys2Proof.Machine

/-! ## Invariants -/

/-- The memory is in its one canonical form. -/
def MemOk (s : State) : Prop := s.blk.mem.wf = true

/-- The sequencer is consistent: `PHASE` and `BUSY` agree (R25, R28), an op in flight is an exchange op that has recorded
nothing yet (R35, R151), and the counters are inside their bounds (R24, R152, R153). -/
structure SeqOk (b : Block) : Prop where
  busy_iff : b.status.busy = true ↔ b.phase ≠ .idle
  flying_cmd : b.phase ≠ .idle → isExchangeCode b.cmd = true
  flying_quiet : b.phase ≠ .idle →
    b.status.done = false ∧ b.status.ok = false ∧ b.err = .none ∧ b.errinfo = 0 ∧ b.vflags = VFlags.clear
  flying_lens : b.phase ≠ .idle →
    3 ≤ b.txlen.toNat ∧ b.txlen.toNat ≤ 258 ∧ 3 ≤ b.rxlen.toNat ∧ b.rxlen.toNat ≤ 258
  tx_counts : b.phase = .tx → b.txcnt.toNat < b.txlen.toNat ∧ b.rxcnt.toNat = 0
  rx_counts : b.phase = .rx → b.txcnt = b.txlen ∧ b.rxcnt.toNat < b.rxlen.toNat

/-- One op, one outcome (R29, R30, R36, R37): `DONE` and `BUSY` are never both 1, with `DONE` = 1 exactly one of `OK` and an
error holds, without it neither does, and `ERRINFO` is an `IOERR_W`-bit code that only `IO` sets. -/
structure FlagsOk (cfg : Config) (b : Block) : Prop where
  not_both : ¬ (b.status.busy = true ∧ b.status.done = true)
  outcome : b.status.done = true → (b.status.ok = true ↔ b.err = .none)
  no_outcome : b.status.done = false → b.status.ok = false ∧ b.err = .none
  info_only_io : b.err ≠ .io → b.errinfo = 0
  info_fits : b.errinfo < 2 ^ cfg.ioErrW

/-- `VALID` speaks of the buffer's current contents (R33, R42): whenever it is 1, `is_valid(RXBUF[0..RXLEN))` holds, and all
the other conditions' bits are 1 with it. -/
structure TrustOk (b : Block) : Prop where
  valid_now : b.vflags.valid = true → isValid (responseBytes b) = true
  valid_all : b.vflags.valid = true → b.vflags.size = true ∧ b.vflags.hs = true ∧ b.vflags.len = true ∧ b.vflags.chk = true

/-- The wire (R77, R241): while an op is in flight `TXBUF[0..TXLEN)` is a valid packet, and the bytes sent last are
`TXBUF[0..TXCNT)`. -/
structure WireOk (s : State) : Prop where
  request_valid : s.blk.phase ≠ .idle → isValid (requestBytes s.blk) = true
  sent_so_far : s.blk.phase ≠ .idle → readBytes s.blk.mem .txbuf 0 s.blk.txcnt.toNat <:+ s.stream.sent

/-- The invariant of every run. -/
structure RunInv (s : State) : Prop where
  mem : MemOk s
  seq : SeqOk s.blk
  flags : FlagsOk s.cfg s.blk
  trust : TrustOk s.blk
  wire : WireOk s

/-! ## What an accepted op leaves -/

/-- The state after an op (its code `c`) that ended in its acceptance step with `ARG` (R234, R236): `CMD`, `ERR`, `ERRINFO`,
`RLEN`, `PHASE` and the three flags are written; everything else keeps its value. -/
def refusedState (c : Byte) (s : State) : State :=
  { s with
    blk := { s.blk with
      cmd := c, err := .arg, errinfo := 0, rlen := 0, phase := .idle,
      status := { s.blk.status with busy := false, done := true, ok := false } } }

/-- The state after a pure op that completed without error and changed the given block: `CMD`, `ERR`, `ERRINFO`, `PHASE` and
the three flags are written over it (R35, R130). -/
def completedState (c : Byte) (s : State) (b : Block) : State :=
  { s with
    blk := { b with
      cmd := c, err := .none, errinfo := 0, phase := .idle,
      status := { b.status with busy := false, done := true, ok := true } } }

/-- What the operand registers hold (R21). -/
def operands (b : Block) : RelayIdx × Byte × Byte × Byte × Byte × Byte :=
  (b.relay, b.bank, b.bstat, b.index, b.chan, b.nreq)

/-- What is outside the FE, but for the moves and accesses still to come: parameters, inputs, the stream, the values HOST has
read. -/
def outside (s : State) : Config × Bool × Bool × Stream × List Nat × Nat :=
  (s.cfg, s.cancel, s.rst, s.stream, s.reads, s.readCount)

/-- `t` is `s` after the acceptance of exchange op `c`, whose request payload is `p` and whose expected response is `total`
bytes long (R35, R132, R151): the request frame stands in `TXBUF`, the sequencer is at the first byte of `TX`, and what no
rule names keeps its value. -/
structure Started (c : Byte) (p : List Byte) (total : Nat) (s t : State) : Prop where
  cmd : t.blk.cmd = c
  payload : payloadBytes t.blk = p
  plen : t.blk.plen.toNat = p.length
  request : requestBytes t.blk = frame p
  txlen : t.blk.txlen.toNat = p.length + 3
  rxlen : t.blk.rxlen.toNat = total
  counts : t.blk.txcnt = 0 ∧ t.blk.rxcnt = 0
  phase : t.blk.phase = .tx
  status : t.blk.status = { s.blk.status with busy := true, done := false, ok := false }
  noError : t.blk.err = .none ∧ t.blk.errinfo = 0
  vflags : t.blk.vflags = VFlags.clear
  operands : operands t.blk = operands s.blk
  results : t.blk.res = s.blk.res ∧ t.blk.rlen = s.blk.rlen ∧ t.blk.ad = s.blk.ad
  rxbuf : ∀ i, readByte t.blk.mem .rxbuf i = readByte s.blk.mem .rxbuf i
  resbuf : ∀ i, readByte t.blk.mem .resbuf i = readByte s.blk.mem .resbuf i
  outside : outside t = outside s
  toCome : t.host = s.host ∧ t.turns = s.turns

/-- Two ops have built the same request: one payload and one frame (R112). -/
def SameRequest (t u : State) : Prop :=
  payloadBytes t.blk = payloadBytes u.blk ∧ requestBytes t.blk = requestBytes u.blk

/-! ## The end of an exchange -/

/-- The next move is the `RX` step that receives the last expected byte, `v` (R153). -/
structure LastByte (s : State) (v : Byte) : Prop where
  rst : s.rst = false
  cancel : s.cancel = false
  phase : s.blk.phase = .rx
  fe : ∃ tx rest, s.turns = .fe tx .deliver :: rest
  held : ∃ h, s.stream.held = v :: h
  last : s.blk.rxcnt.toNat + 1 = s.blk.rxlen.toNat
  fits : s.blk.rxlen.toNat ≤ 258

/-- The response once `v` has been stored: `RXBUF[0..RXCNT)` and `v`. -/
def received (s : State) (v : Byte) : List Byte := readBytes s.blk.mem .rxbuf 0 s.blk.rxcnt.toNat ++ [v]

/-- `t` is `s` after the last byte `v` ended the exchange, whatever the verdict (R153, R154): the byte is taken from the
stream and stored, the flags are those of the received bytes, the block is idle, and what the finish action does not name
keeps its value. Results, `OK`, `STALE`, `ERR` and `ERRINFO` are said where this is used. -/
structure Ended (s t : State) (v : Byte) : Prop where
  phase : t.blk.phase = .idle
  status : t.blk.status.busy = false ∧ t.blk.status.done = true ∧ t.blk.status.hosterr = s.blk.status.hosterr
  counts : t.blk.txcnt = s.blk.txcnt ∧ t.blk.rxcnt = s.blk.rxlen
  lens : t.blk.plen = s.blk.plen ∧ t.blk.txlen = s.blk.txlen ∧ t.blk.rxlen = s.blk.rxlen
  cmd : t.blk.cmd = s.blk.cmd
  response : responseBytes t.blk = received s v
  vflags : t.blk.vflags = checkFlags (received s v)
  operands : operands t.blk = operands s.blk
  pbuf : ∀ i, readByte t.blk.mem .pbuf i = readByte s.blk.mem .pbuf i
  txbuf : ∀ i, readByte t.blk.mem .txbuf i = readByte s.blk.mem .txbuf i
  rxbuf : ∀ i, i ≠ s.blk.rxcnt.toNat → readByte t.blk.mem .rxbuf i = readByte s.blk.mem .rxbuf i
  stream : t.stream.sent = s.stream.sent ∧ t.stream.held = s.stream.held.tail
  inputs : t.cfg = s.cfg ∧ t.cancel = s.cancel ∧ t.rst = s.rst
  toCome : t.host = s.host ∧ t.reads = s.reads ∧ t.readCount = s.readCount ∧ t.turns = s.turns.tail

/-- `t` ended with `OK` = 1 (R130): no error is recorded that was not, and `STALE` is as it was. -/
structure EndedOk (s t : State) (v : Byte) : Prop extends Ended s t v where
  ok : t.blk.status.ok = true ∧ t.blk.status.stale = s.blk.status.stale
  err : t.blk.err = s.blk.err ∧ t.blk.errinfo = s.blk.errinfo

/-- The last op of `t` has a result (so it ended with `OK` = 1): `res` in `RES`, `bytes` in `RESBUF[0..RLEN)`, `ad` in the slots
of `AD` from 0 on, each only as far as the op writes it (R22, R30, R282). -/
def Yields (t : State) (res : Option Byte) (bytes : List Byte) (ad : List Nat) : Prop :=
  ∃ r, resultOf t.blk = some r ∧ r.res = res ∧ r.bytes = bytes ∧ r.ad.map BitVec.toNat = ad

/-- The 10-bit samples of the byte pairs of a payload, `n` of them (R106). -/
def samplesOf (p : List Byte) (n : Nat) : List Nat :=
  (List.range n).map fun k => (p.getD (2 * k) 0).toNat % 4 * 256 + (p.getD (2 * k + 1) 0).toNat

/-- The result registers and `RESBUF` keep their values. -/
structure ResultsKept (s t : State) : Prop where
  res : t.blk.res = s.blk.res
  ad : t.blk.ad = s.blk.ad
  resbuf : ∀ i, readByte t.blk.mem .resbuf i = readByte s.blk.mem .resbuf i

/-! ## The command table, R109 -/

/-- The request payload and the total response length of an exchange op (R109, R159, R160), `none` where its guard refuses the
operands (R133, R180, R103, R104) or the op is pure. -/
def requestOf (cfg : Config) (b : Block) : Instr → Option (List Byte × Nat)
  | .nop => none
  | .csum => none
  | .build => none
  | .check => none
  | .payld => none
  | .rawcmd => if b.plen.toNat ≤ 255 then some (payloadBytes b, 4) else none
  | .rawrd => if b.plen.toNat ≤ 255 then some (payloadBytes b, b.nreq.toNat + 3) else none
  | .rlyon =>
    if b.relay.toNat = 0 then none
    else some ([254#8, 48#8, BitVec.ofNat 8 ((b.relay.toNat - 1) % 256), BitVec.ofNat 8 ((b.relay.toNat - 1) / 256)], 4)
  | .rlyoff =>
    if b.relay.toNat = 0 then none
    else some ([254#8, 47#8, BitVec.ofNat 8 ((b.relay.toNat - 1) % 256), BitVec.ofNat 8 ((b.relay.toNat - 1) / 256)], 4)
  | .rlyget =>
    if b.relay.toNat = 0 then none
    else some ([254#8, 44#8, BitVec.ofNat 8 ((b.relay.toNat - 1) % 256), BitVec.ofNat 8 ((b.relay.toNat - 1) / 256)], 4)
  | .bnkset => some ([254#8, 140#8, b.bstat, b.bank], 4)
  | .bnkget => some ([254#8, 124#8, b.bank], 4)
  | .brlyon =>
    if b.index.toNat ≤ 148 then
      match cfg.brlyonForm with
      | .table4 => some ([254#8, 48#8, 107#8 + b.index, b.bank], 4)
      | .sym3 => some ([254#8, 107#8 + b.index, b.bank], 4)
    else none
  | .brlyoff => if b.index.toNat ≤ 156 then some ([254#8, 99#8 + b.index, b.bank], 4) else none
  | .ad8one => if b.chan.toNat ≤ 106 then some ([254#8, 149#8 + b.chan], 4) else none
  | .ad8all => some ([254#8, 166#8], 11)
  | .ad10one =>
    if b.chan.toNat ≤ 106 then
      match cfg.ad10oneNreq with
      | .one => some ([254#8, 149#8 + b.chan], 4)
      | .two => some ([254#8, 149#8 + b.chan], 5)
    else none
  | .ad10all => some ([254#8, 166#8], 19)
  | .clrstale => none
  | .sreset => none

/-- `RES` and `AD` keep their values. -/
def ScalarsKept (s t : State) : Prop := t.blk.res = s.blk.res ∧ t.blk.ad = s.blk.ad

/-- The decoded result of an exchange op whose valid response has payload `p` (R109, last column; R157, R158), from the state
`s` before it to the state `t` after it: what the op yields, read under `OK` = 1 only, and which of the registers keep
their values. -/
def Decoded109 (i : Instr) (p : List Byte) (s t : State) : Prop :=
  match i with
  | .nop => True
  | .csum => True
  | .build => True
  | .check => True
  | .payld => True
  | .rawcmd => Yields t none [] [] ∧ t.blk.rlen = 0 ∧ ResultsKept s t
  | .rawrd => Yields t none p [] ∧ t.blk.rlen.toNat = p.length ∧ ScalarsKept s t
  | .rlyon => Yields t none [] [] ∧ t.blk.rlen = 0 ∧ ResultsKept s t
  | .rlyoff => Yields t none [] [] ∧ t.blk.rlen = 0 ∧ ResultsKept s t
  | .rlyget =>
    Yields t (some (if p.getD 0 0 = 1#8 then 1#8 else 0#8)) p [] ∧ t.blk.rlen.toNat = p.length ∧ t.blk.ad = s.blk.ad
  | .bnkset => Yields t none [] [] ∧ t.blk.rlen = 0 ∧ ResultsKept s t
  | .bnkget => Yields t (some (p.getD 0 0)) p [] ∧ t.blk.rlen.toNat = p.length ∧ t.blk.ad = s.blk.ad
  | .brlyon => Yields t none [] [] ∧ t.blk.rlen = 0 ∧ ResultsKept s t
  | .brlyoff => Yields t none [] [] ∧ t.blk.rlen = 0 ∧ ResultsKept s t
  | .ad8one => Yields t (some (p.getD 0 0)) p [] ∧ t.blk.rlen.toNat = p.length ∧ t.blk.ad = s.blk.ad
  | .ad8all =>
    Yields t none p ((List.range 8).map fun k => (p.getD k 0).toNat) ∧ t.blk.rlen.toNat = p.length
      ∧ t.blk.res = s.blk.res
  | .ad10one =>
    Yields t none p (samplesOf p 1) ∧ t.blk.rlen.toNat = p.length ∧ t.blk.res = s.blk.res
      ∧ ∀ k : Fin 8, k ≠ 0 → t.blk.ad[k] = s.blk.ad[k]
  | .ad10all => Yields t none p (samplesOf p 8) ∧ t.blk.rlen.toNat = p.length ∧ t.blk.res = s.blk.res
  | .clrstale => True
  | .sreset => True

/-! ## Causes of ARG, R234 -/

/-- The complete list of causes of `ARG` for the ops (R234). -/
def argCause (b : Block) : Instr → Prop
  | .nop => False
  | .csum => 255 < b.plen.toNat
  | .build => 255 < b.plen.toNat
  | .check => 258 < b.rxlen.toNat
  | .payld => b.vflags.valid = false
  | .rawcmd => 255 < b.plen.toNat
  | .rawrd => 255 < b.plen.toNat
  | .rlyon => b.relay = 0
  | .rlyoff => b.relay = 0
  | .rlyget => b.relay = 0
  | .bnkset => False
  | .bnkget => False
  | .brlyon => 255 < 107 + b.index.toNat
  | .brlyoff => 255 < 99 + b.index.toNat
  | .ad8one => 255 < 149 + b.chan.toNat
  | .ad8all => False
  | .ad10one => 255 < 149 + b.chan.toNat
  | .ad10all => False
  | .clrstale => False
  | .sreset => False

/-- A register a HOST write can never change (R32, R34): read-only, `TXBUF` or `RESBUF`. -/
def readOnly (r : Reg) : Prop := regAccess r = .r

/-- The block is in its reset state (R53): every register 0, and no buffer byte holds a value. -/
structure AtReset (b : Block) : Prop where
  operands : operands b = (0, 0, 0, 0, 0, 0)
  results : b.res = 0 ∧ b.rlen = 0 ∧ b.ad = #v[0, 0, 0, 0, 0, 0, 0, 0]
  sequencer : b.phase = .idle ∧ b.txcnt = 0 ∧ b.rxcnt = 0
  flags : b.status = Status.clear ∧ b.vflags = VFlags.clear
  control : b.cmd = 0 ∧ b.err = .none ∧ b.errinfo = 0
  lens : b.plen = 0 ∧ b.txlen = 0 ∧ b.rxlen = 0
  buffers : b.mem.pbuf.cells = [] ∧ b.mem.txbuf.cells = [] ∧ b.mem.rxbuf.cells = [] ∧ b.mem.resbuf.cells = []

end Sys2Proof.Machine
end

