-- ==== Sys2Proof/Certificates/Slice0/Obligations.lean ====
section
/-! DEFINITION. The statements for the provers: encodings and codec functions, what each op does and leaves alone, the steps of
an exchange, HOST's accesses, reset, and the invariants and whole-machine rules of every run. -/

open Sys2Proof Sys2Proof.Machine

/-! ## Encodings -/

/-- spec/30_encoding.md R110: the op codes of the table, each decoding to its own op and no other value decoding to it. -/
def Obligations.OpcodesAreThoseOfTheTable : Prop :=
  encode .nop = 0x00#8 ∧ encode .csum = 0x01#8 ∧ encode .build = 0x02#8 ∧ encode .check = 0x03#8
  ∧ encode .payld = 0x04#8 ∧ encode .rawcmd = 0x08#8 ∧ encode .rawrd = 0x09#8
  ∧ encode .rlyon = 0x10#8 ∧ encode .rlyoff = 0x11#8 ∧ encode .rlyget = 0x12#8 ∧ encode .bnkset = 0x13#8
  ∧ encode .bnkget = 0x14#8 ∧ encode .brlyon = 0x15#8 ∧ encode .brlyoff = 0x16#8
  ∧ encode .ad8one = 0x20#8 ∧ encode .ad8all = 0x21#8 ∧ encode .ad10one = 0x22#8 ∧ encode .ad10all = 0x23#8
  ∧ encode .clrstale = 0xF0#8 ∧ encode .sreset = 0xFF#8
  ∧ ∀ (c : Byte) (i : Instr), decode c = .op i ↔ encode i = c

/-- spec/30_encoding.md R113: which `CMD` values are illegal, and what HOST's write of one does while the block is idle.
R113's list does not name `ERRINFO`: that it is cleared is the model's reading (log entry 14, from R35's acceptance). -/
def Obligations.IllegalOpcodesCompleteWithArg : Prop :=
  (∀ c : Byte, decode c = .illegalOpcode c ↔
    (0x05 ≤ c.toNat ∧ c.toNat ≤ 0x07) ∨ (0x0A ≤ c.toNat ∧ c.toNat ≤ 0x0F) ∨ (0x17 ≤ c.toNat ∧ c.toNat ≤ 0x1F)
      ∨ (0x24 ≤ c.toNat ∧ c.toNat ≤ 0xEF) ∨ (0xF1 ≤ c.toNat ∧ c.toNat ≤ 0xFE))
  ∧ ∀ (s : State) (c : Byte) (h : List HostOp) (rest : List Turn),
      decode c = .illegalOpcode c → s.rst = false → s.blk.status.busy = false → s.blk.phase = .idle →
      s.turns = .host :: rest → s.host = .wr 0x00 c.toNat :: h →
      step s = .next { s with
        turns := rest, host := h,
        blk := { s.blk with
          cmd := c, err := .arg, errinfo := 0, rlen := 0,
          status := { s.blk.status with done := true, ok := false } } }

/-- spec/10_state.md R34: register names and numbers stand for each other, and the mapped numbers are those of the table. -/
def Obligations.RegisterNumbersRoundTrip : Prop :=
  (∀ r : Reg, regOfNumber (regNumber r) = some r)
  ∧ (∀ (n : Nat) (r : Reg), regOfNumber n = some r → regNumber r = n)
  ∧ ∀ n : Nat, (regOfNumber n).isSome = mappedNumber n

/-- spec/30_encoding.md R115: every program line, with every register, buffer index, value and op, decodes from the access it
stands for; the one spelling left out, `WR CMD` of an op code, is the op's own line. Every access by a mapped number is
some line's, and a line read from an access stands for it. -/
def Obligations.ProgramLinesRoundTrip : Prop :=
  (∀ (r : Reg) (v : Nat), (r = .cmd → 256 ≤ v ∨ ∀ i, decode (BitVec.ofNat 8 v) ≠ .op i) →
    decodeLine (encodeLine (.wr r v)) = some (.wr r v))
  ∧ (∀ i : Instr, decodeLine (encodeLine (.op i)) = some (.op i)
      ∧ decodeLine (encodeLine (.wr .cmd (encode i).toNat)) = some (.op i))
  ∧ (∀ r : Reg, decodeLine (encodeLine (.rd r)) = some (.rd r))
  ∧ decodeLine (encodeLine .wait) = some .wait
  ∧ (∀ (h : HostOp) (l : Line), decodeLine h = some l → encodeLine l = h)
  ∧ ∀ h : HostOp, (decodeLine h).isSome = h.wf

/-! ## Codec functions -/

/-- spec/30_encoding.md R96. -/
def Obligations.ChecksumIsTheSumModulo256 : Prop :=
  csum8 [] = 0#8
  ∧ (∀ s : List Byte, (csum8 s).toNat = (s.map BitVec.toNat).sum % 256)
  ∧ (∀ a b : List Byte, (csum8 (a ++ b)).toNat = ((csum8 a).toNat + (csum8 b).toNat) % 256)
  ∧ (∀ a b : List Byte, a.Perm b → csum8 a = csum8 b)
  ∧ csum8 [0xAA#8, 0x04#8, 0xFE#8, 0x30#8, 0x00#8, 0x00#8] = 0xDC#8

/-- spec/30_encoding.md R90, R97, R98: the frame's layout, and validity at the lengths no packet has. -/
def Obligations.FrameLayoutAndLengths : Prop :=
  (∀ p : List Byte, p.length ≤ 255 →
    (frame p).length = p.length + 3
    ∧ (frame p)[0]? = some 0xAA#8
    ∧ (frame p)[1]? = some (BitVec.ofNat 8 p.length)
    ∧ (∀ i, i < p.length → (frame p)[2 + i]? = p[i]?)
    ∧ (frame p)[2 + p.length]? = some (csum8 ((frame p).take (2 + p.length))))
  ∧ ∀ s : List Byte, s.length < 3 ∨ 258 < s.length → isValid s = false

/-- spec/30_encoding.md R100: (a), (b), (c). -/
def Obligations.FrameAndPayloadRoundTrip : Prop :=
  (∀ p : List Byte, p.length ≤ 255 → isValid (frame p) = true ∧ payload (frame p) = p)
  ∧ ∀ s : List Byte, isValid s = true → frame (payload s) = s ∧ (s[1]?.map BitVec.toNat) = some (payload s).length

/-- spec/30_encoding.md R101: every in-place change of one byte invalidates; changes of two bytes that cancel, and reorderings
of the payload, do not. -/
def Obligations.EverySingleByteChangeInvalidates : Prop :=
  (∀ (s : List Byte) (i : Nat) (v : Byte), isValid s = true → i < s.length → s[i]? ≠ some v →
    isValid (s.set i v) = false)
  ∧ isValid [0xAA#8, 0x04#8, 0xFE#8, 0x30#8, 0x01#8, 0xFF#8, 0xDC#8] = true
  ∧ (∀ p q : List Byte, p.length ≤ 255 → p.Perm q →
      isValid ([0xAA#8, BitVec.ofNat 8 p.length] ++ q ++ [csum8 (framePre p)]) = true)
  ∧ ∀ (a b c : List Byte) (x y d : Byte), (a ++ x :: b ++ y :: c).length ≤ 255 →
      isValid ([0xAA#8, BitVec.ofNat 8 (a ++ x :: b ++ y :: c).length] ++ (a ++ (x + d) :: b ++ (y - d) :: c)
        ++ [csum8 (framePre (a ++ x :: b ++ y :: c))]) = true

/-- spec/30_encoding.md R102, with the refusal of 0 by the three relay ops. -/
def Obligations.RelayIndexIsEncodedLittleEndianMinusOne : Prop :=
  (∀ n : RelayIdx, n ≠ 0 →
    (encRelay n).1.toNat = (n.toNat - 1) % 256 ∧ (encRelay n).2.toNat = (n.toNat - 1) / 256
    ∧ encRelay n ≠ (0xFF#8, 0xFF#8))
  ∧ encRelay 1 = (0x00#8, 0x00#8) ∧ encRelay 256 = (0xFF#8, 0x00#8) ∧ encRelay 257 = (0x00#8, 0x01#8)
  ∧ encRelay 65535 = (0xFE#8, 0xFF#8)
  ∧ ∀ s : State, s.blk.relay = 0 →
      exec .rlyon s = .next (refusedState 0x10#8 s) ∧ exec .rlyoff s = .next (refusedState 0x11#8 s)
      ∧ exec .rlyget s = .next (refusedState 0x12#8 s)

/-- spec/30_encoding.md R105, R106. -/
def Obligations.ResponseDecodersIgnoreTheRightBits : Prop :=
  decBool 1#8 = 1#8 ∧ (∀ b : Byte, b ≠ 1#8 → decBool b = 0#8)
  ∧ (∀ hi lo : Byte, (dec10 hi lo).toNat = hi.toNat % 4 * 256 + lo.toNat
      ∧ dec10 hi lo = (hi.setWidth 10 <<< 8) ||| lo.setWidth 10
      ∧ ∀ hi' : Byte, hi'.extractLsb' 0 2 = hi.extractLsb' 0 2 → dec10 hi' lo = dec10 hi lo)
  ∧ dec10 0xFF#8 0xFF#8 = 1023#10 ∧ dec10 0x03#8 0xFF#8 = 1023#10 ∧ dec10 0x00#8 0x00#8 = 0#10

/-- spec/30_encoding.md R112, said of the ops themselves: requests that look alike, the last for `BRLYON_FORM` = `TABLE4`. The
ops of a pair start from one state, `BRLYON` and `RLYON` from any two whose operands R112 relates. -/
def Obligations.AliasedRequestsAreTheSame : Prop :=
  (∀ s : State, s.blk.chan.toNat ≤ 106 →
    ∃ t u, exec .ad8one s = .next t ∧ exec .ad10one s = .next u ∧ SameRequest t u)
  ∧ (∀ s : State, ∃ t u, exec .ad8all s = .next t ∧ exec .ad10all s = .next u ∧ SameRequest t u)
  ∧ (∀ s : State, s.blk.chan = 17 →
      (∃ t u, exec .ad8one s = .next t ∧ exec .ad8all s = .next u ∧ SameRequest t u)
      ∧ ∃ t u, exec .ad10one s = .next t ∧ exec .ad10all s = .next u ∧ SameRequest t u)
  ∧ ∀ s r : State, s.cfg.brlyonForm = .table4 → s.blk.index.toNat ≤ 148 →
      r.blk.relay.toNat = s.blk.bank.toNat * 256 + 107 + s.blk.index.toNat + 1 →
      ∃ t u, exec .brlyon s = .next t ∧ exec .rlyon r = .next u ∧ SameRequest t u ∧ t.blk.rxlen = u.blk.rxlen

/-! ## Pure ops -/

/-- spec/44_system_ops.md R220. -/
def Obligations.NopWritesOnlyItsOutcome : Prop :=
  (∀ s : State, exec .nop s = .next (completedState 0x00#8 s s.blk))
  ∧ State.reset.blk.cmd = encode .nop ∧ State.reset.blk.status.done = false

/-- spec/44_system_ops.md R221. -/
def Obligations.ClrstaleClearsStaleOnly : Prop :=
  ∀ s : State,
    exec .clrstale s
      = .next (completedState 0xF0#8 s { s.blk with status := { s.blk.status with stale := false } })

/-- spec/44_system_ops.md R222: the block is in its reset state; nothing outside it changes. -/
def Obligations.SresetLeavesTheResetState : Prop :=
  ∀ s : State, ∃ t, exec .sreset s = .next t ∧ AtReset t.blk ∧ t = { s with blk := t.blk }

/-- spec/40_codec.md R131, R133. -/
def Obligations.CsumPutsTheChecksumInRes : Prop :=
  (∀ s : State, s.blk.plen.toNat ≤ 255 → ∃ t, exec .csum s = .next t
    ∧ t = completedState 0x01#8 s
        { s.blk with res := csum8 (readBytes s.blk.mem .pbuf 0 s.blk.plen.toNat), rlen := 0 }
    ∧ Yields t (some (csum8 (readBytes s.blk.mem .pbuf 0 s.blk.plen.toNat))) [] [])
  ∧ (∀ s : State, 255 < s.blk.plen.toNat → exec .csum s = .next (refusedState 0x01#8 s))
  ∧ csum8 [] = 0#8 ∧ csum8 (List.replicate 255 0xFF#8) = 1#8
  ∧ csum8 [0xAA#8, 0x04#8, 0xFE#8, 0x30#8, 0x00#8, 0x00#8] = 0xDC#8

/-- spec/40_codec.md R132, R133, R134: the frame stands in `TXBUF`; registers as listed; every byte of the other buffers as it
was. -/
def Obligations.BuildPutsTheFrameInTxbuf : Prop :=
  (∀ s : State, s.blk.plen.toNat ≤ 255 → ∃ t, exec .build s = .next t
    ∧ readBytes t.blk.mem .txbuf 0 (s.blk.plen.toNat + 3) = frame (readBytes s.blk.mem .pbuf 0 s.blk.plen.toNat)
    ∧ t.blk.txlen.toNat = s.blk.plen.toNat + 3
    ∧ t = completedState 0x02#8 s { s.blk with rlen := 0, txlen := t.blk.txlen, mem := t.blk.mem }
    ∧ ∀ (b : BufId) (i : Nat), b ≠ .txbuf → readByte t.blk.mem b i = readByte s.blk.mem b i)
  ∧ (∀ s : State, 255 < s.blk.plen.toNat → exec .build s = .next (refusedState 0x02#8 s))
  ∧ frame [] = [0xAA#8, 0x00#8, 0xAA#8]
  ∧ frame [254#8, 48#8, 0#8, 0#8] = [0xAA#8, 0x04#8, 0xFE#8, 0x30#8, 0x00#8, 0x00#8, 0xDC#8]

/-- spec/40_codec.md R135, R136, R137 and spec/10_state.md R33: every flag, and everything else as it was. -/
def Obligations.CheckSetsTheFiveFlags : Prop :=
  (∀ s : State, s.blk.rxlen.toNat ≤ 258 → ∃ v : VFlags,
    exec .check s = .next (completedState 0x03#8 s { s.blk with rlen := 0, vflags := v })
    ∧ (v.valid = true ↔ isValid (readBytes s.blk.mem .rxbuf 0 s.blk.rxlen.toNat) = true)
    ∧ (s.blk.rxlen.toNat < 3 → v = { size := false, hs := false, len := false, chk := false, valid := false })
    ∧ (3 ≤ s.blk.rxlen.toNat →
        v.size = true
        ∧ (v.hs = true ↔ readByte s.blk.mem .rxbuf 0 = 0xAA#8)
        ∧ (v.len = true ↔ (readByte s.blk.mem .rxbuf 1).toNat = s.blk.rxlen.toNat - 3)
        ∧ (v.chk = true ↔ readByte s.blk.mem .rxbuf (s.blk.rxlen.toNat - 1)
            = csum8 (readBytes s.blk.mem .rxbuf 0 (s.blk.rxlen.toNat - 1)))
        ∧ (v.valid = true ↔ v.hs = true ∧ v.len = true ∧ v.chk = true)))
  ∧ ∀ s : State, 258 < s.blk.rxlen.toNat →
      exec .check s = .next (refusedState 0x03#8 { s with blk := { s.blk with vflags := VFlags.clear } })

/-- spec/40_codec.md R138, R139, R140: the payload stands in `RESBUF`; everything else as it was. The premise that `VALID`
speaks of a buffer of 3 to 258 bytes is R33's (TrustOk). -/
def Obligations.PayldCopiesTheValidatedPayload : Prop :=
  (∀ s : State, TrustOk s.blk → s.blk.vflags.valid = true → ∃ t, exec .payld s = .next t
    ∧ t.blk.rlen.toNat = s.blk.rxlen.toNat - 3
    ∧ Yields t none (payload (readBytes s.blk.mem .rxbuf 0 s.blk.rxlen.toNat)) []
    ∧ t = completedState 0x04#8 s { s.blk with rlen := t.blk.rlen, mem := t.blk.mem }
    ∧ ∀ (b : BufId) (i : Nat), b ≠ .resbuf → readByte t.blk.mem b i = readByte s.blk.mem b i)
  ∧ ∀ s : State, s.blk.vflags.valid = false → exec .payld s = .next (refusedState 0x04#8 s)

/-- spec/60_exceptions.md R234: `ARG` for exactly the causes of the list, in the acceptance step, with the block idle and
nothing sent or read. -/
def Obligations.ArgIsRaisedForExactlyTheListedCauses : Prop :=
  ∀ (i : Instr) (s : State), ∃ t, exec i s = .next t
    ∧ (t.blk.err = .arg ↔ argCause s.blk i)
    ∧ (argCause s.blk i →
        t.blk.phase = .idle ∧ t.blk.status.done = true ∧ t.blk.status.ok = false ∧ t.blk.rlen = 0
        ∧ t.blk.mem = s.blk.mem ∧ t.blk.res = s.blk.res ∧ t.blk.ad = s.blk.ad ∧ t.stream = s.stream)

/-- spec/40_codec.md R141: build a frame of any payload, take the frame as the response, check it, extract its payload. -/
def Obligations.CodecOpsRoundTrip : Prop :=
  ∀ s : State, s.blk.plen.toNat ≤ 255 → ∃ t, exec .build s = .next t ∧
    ∀ u : State,
      u.blk.rxlen = t.blk.txlen →
      readBytes u.blk.mem .rxbuf 0 u.blk.rxlen.toNat = readBytes t.blk.mem .txbuf 0 t.blk.txlen.toNat →
      ∃ v, exec .check u = .next v ∧ v.blk.vflags.valid = true
        ∧ ∃ w, exec .payld v = .next w ∧ w.blk.status.ok = true ∧ w.blk.rlen.toNat = s.blk.plen.toNat
          ∧ Yields w none (readBytes s.blk.mem .pbuf 0 s.blk.plen.toNat) []

/-! ## Exchange ops: acceptance -/

/-- spec/41_exchange.md R157 to R160: acceptance of the raw ops, and their refusal. `PBUF` and `PLEN` keep their values. -/
def Obligations.RawOpsStartWithPbuf : Prop :=
  (∀ s : State, s.blk.plen.toNat ≤ 255 →
    (∃ t, exec .rawcmd s = .next t ∧ Started 0x08#8 (readBytes s.blk.mem .pbuf 0 s.blk.plen.toNat) 4 s t
      ∧ t.blk.plen = s.blk.plen ∧ ∀ i, readByte t.blk.mem .pbuf i = readByte s.blk.mem .pbuf i)
    ∧ ∃ t, exec .rawrd s = .next t
      ∧ Started 0x09#8 (readBytes s.blk.mem .pbuf 0 s.blk.plen.toNat) (s.blk.nreq.toNat + 3) s t
      ∧ t.blk.plen = s.blk.plen ∧ ∀ i, readByte t.blk.mem .pbuf i = readByte s.blk.mem .pbuf i)
  ∧ ∀ s : State, 255 < s.blk.plen.toNat →
      exec .rawcmd s = .next (refusedState 0x08#8 s) ∧ exec .rawrd s = .next (refusedState 0x09#8 s)

/-- spec/42_relay_commands.md R180 to R183: acceptance of the three relay ops. -/
def Obligations.RelayOpsStartWithTheEncodedIndex : Prop :=
  ∀ (s : State) (lsb msb : Byte), s.blk.relay ≠ 0 →
    lsb.toNat = (s.blk.relay.toNat - 1) % 256 → msb.toNat = (s.blk.relay.toNat - 1) / 256 →
    (∃ t, exec .rlyon s = .next t ∧ Started 0x10#8 [254#8, 48#8, lsb, msb] 4 s t)
    ∧ (∃ t, exec .rlyoff s = .next t ∧ Started 0x11#8 [254#8, 47#8, lsb, msb] 4 s t)
    ∧ ∃ t, exec .rlyget s = .next t ∧ Started 0x12#8 [254#8, 44#8, lsb, msb] 4 s t

/-- spec/42_relay_commands.md R184, R185: acceptance of the bank ops, for every operand. -/
def Obligations.BankOpsStartWithTheirOperands : Prop :=
  ∀ s : State,
    (∃ t, exec .bnkset s = .next t ∧ Started 0x13#8 [254#8, 140#8, s.blk.bstat, s.blk.bank] 4 s t)
    ∧ ∃ t, exec .bnkget s = .next t ∧ Started 0x14#8 [254#8, 124#8, s.blk.bank] 4 s t

/-- spec/42_relay_commands.md R186, R187: acceptance of the relay-by-bank ops, both forms of `BRLYON`, and the refusals. -/
def Obligations.BankRelativeOpsStartOrRefuse : Prop :=
  (∀ (s : State) (sub : Byte), sub.toNat = 107 + s.blk.index.toNat → ∃ t, exec .brlyon s = .next t
    ∧ (s.cfg.brlyonForm = .table4 → Started 0x15#8 [254#8, 48#8, sub, s.blk.bank] 4 s t)
    ∧ (s.cfg.brlyonForm = .sym3 → Started 0x15#8 [254#8, sub, s.blk.bank] 4 s t))
  ∧ (∀ (s : State) (sub : Byte), sub.toNat = 99 + s.blk.index.toNat →
      ∃ t, exec .brlyoff s = .next t ∧ Started 0x16#8 [254#8, sub, s.blk.bank] 4 s t)
  ∧ (∀ s : State, 148 < s.blk.index.toNat → exec .brlyon s = .next (refusedState 0x15#8 s))
  ∧ ∀ s : State, 156 < s.blk.index.toNat → exec .brlyoff s = .next (refusedState 0x16#8 s)

/-- spec/43_adc_commands.md R200, R201, R203: acceptance of the single-channel reads, both values of `AD10ONE_NREQ`, and the
refusals. -/
def Obligations.SingleAdcReadsStartOrRefuse : Prop :=
  (∀ (s : State) (sub : Byte), sub.toNat = 149 + s.blk.chan.toNat →
    (∃ t, exec .ad8one s = .next t ∧ Started 0x20#8 [254#8, sub] 4 s t)
    ∧ ∃ t, exec .ad10one s = .next t
      ∧ (s.cfg.ad10oneNreq = .one → Started 0x22#8 [254#8, sub] 4 s t)
      ∧ (s.cfg.ad10oneNreq = .two → Started 0x22#8 [254#8, sub] 5 s t))
  ∧ ∀ s : State, 106 < s.blk.chan.toNat →
      exec .ad8one s = .next (refusedState 0x20#8 s) ∧ exec .ad10one s = .next (refusedState 0x22#8 s)

/-- spec/43_adc_commands.md R202, R204, R205: acceptance of the read-all ops: one request, two response lengths. -/
def Obligations.AllAdcReadsStart : Prop :=
  ∀ s : State,
    (∃ t, exec .ad8all s = .next t ∧ Started 0x21#8 [254#8, 166#8] 11 s t)
    ∧ ∃ t, exec .ad10all s = .next t ∧ Started 0x23#8 [254#8, 166#8] 19 s t

/-! ## The steps of an exchange -/

/-- spec/41_exchange.md R152: a `TX` step, case by case, in the order of its tests. -/
def Obligations.TxStepSendsOneByteOrEnds : Prop :=
  ∀ (s : State) (tx : TxEvent) (rx : RxOffer) (rest : List Turn),
    s.rst = false → s.blk.phase = .tx → isExchangeCode s.blk.cmd = true → s.turns = .fe tx rx :: rest →
    (s.cancel = true →
      step s = .next { s with
        turns := rest,
        blk := { s.blk with
          err := .timeout, errinfo := 0, rlen := 0, phase := .idle,
          status := { s.blk.status with
            busy := false, done := true, ok := false,
            stale := s.blk.status.stale || decide (0 < s.blk.txcnt.toNat) } } })
    ∧ (∀ e, s.cancel = false → tx = .err e → e < 2 ^ s.cfg.ioErrW →
        step s = .next { s with
          turns := rest,
          blk := { s.blk with
            err := .io, errinfo := e, rlen := 0, phase := .idle,
            status := { s.blk.status with
              busy := false, done := true, ok := false,
              stale := s.blk.status.stale || decide (0 < s.blk.txcnt.toNat) } } })
    ∧ (s.cancel = false → tx = .ready →
        step s = .next { s with
          turns := rest,
          stream := { s.stream with sent := s.stream.sent ++ [readByte s.blk.mem .txbuf s.blk.txcnt.toNat] },
          blk := { s.blk with
            txcnt := s.blk.txcnt + 1,
            phase := if s.blk.txcnt + 1 = s.blk.txlen then .rx else .tx } })
    ∧ (s.cancel = false → tx = .busy → step s = .next { s with turns := rest })

/-- spec/41_exchange.md R153: an `RX` step that does not receive the last byte, case by case, in the order of its tests. -/
def Obligations.RxStepStoresOneByteOrEnds : Prop :=
  ∀ (s : State) (tx : TxEvent) (rx : RxOffer) (rest : List Turn),
    s.rst = false → s.blk.phase = .rx → isExchangeCode s.blk.cmd = true → s.turns = .fe tx rx :: rest →
    (s.cancel = true →
      step s = .next { s with
        turns := rest,
        blk := { s.blk with
          err := .timeout, errinfo := 0, rlen := 0, phase := .idle,
          status := { s.blk.status with
            busy := false, done := true, ok := false,
            stale := s.blk.status.stale || decide (0 < s.blk.txcnt.toNat) } } })
    ∧ (∀ e, s.cancel = false → rx = .err e → e < 2 ^ s.cfg.ioErrW →
        step s = .next { s with
          turns := rest,
          blk := { s.blk with
            err := .io, errinfo := e, rlen := 0, phase := .idle,
            status := { s.blk.status with
              busy := false, done := true, ok := false,
              stale := s.blk.status.stale || decide (0 < s.blk.txcnt.toNat) } } })
    ∧ (∀ v h, s.cancel = false → rx = .deliver → s.stream.held = v :: h →
        s.blk.rxcnt.toNat + 1 < s.blk.rxlen.toNat → s.blk.rxlen.toNat ≤ 258 →
        ∃ m, step s = .next { s with
            turns := rest, stream := { s.stream with held := h },
            blk := { s.blk with rxcnt := s.blk.rxcnt + 1, mem := m } }
          ∧ readByte m .rxbuf s.blk.rxcnt.toNat = v
          ∧ ∀ b i, ¬ (b = .rxbuf ∧ i = s.blk.rxcnt.toNat) → readByte m b i = readByte s.blk.mem b i)
    ∧ (s.cancel = false → (rx = .empty ∨ (rx = .deliver ∧ s.stream.held = [])) →
        step s = .next { s with turns := rest })

/-- spec/41_exchange.md R154 and spec/60_exceptions.md R231, R242: a response that is not valid. -/
def Obligations.InvalidResponseEndsInvalid : Prop :=
  ∀ (s : State) (v : Byte), LastByte s v → isValid (received s v) = false →
    ∃ t, step s = .next t ∧ Ended s t v ∧ ResultsKept s t ∧ resultOf t.blk = none
      ∧ t.blk.err = .invalid ∧ t.blk.errinfo = 0 ∧ t.blk.rlen = 0
      ∧ t.blk.status.ok = false ∧ t.blk.status.stale = true

/-- spec/41_exchange.md R157, R159 and spec/42_relay_commands.md R181, R182, R184, R186, R187: a valid acknowledgment ends a
command-only op with `OK`, whatever its payload byte. -/
def Obligations.CommandOnlyOpsEndOkOnAnyValidAck : Prop :=
  ∀ (i : Instr) (s : State) (v : Byte),
    (i = .rawcmd ∨ i = .rlyon ∨ i = .rlyoff ∨ i = .bnkset ∨ i = .brlyon ∨ i = .brlyoff) →
    s.blk.cmd = encode i → LastByte s v → isValid (received s v) = true →
    ∃ t, step s = .next t ∧ EndedOk s t v ∧ Yields t none [] [] ∧ ResultsKept s t ∧ t.blk.rlen = 0

/-- spec/41_exchange.md R158, R160, spec/42_relay_commands.md R183, R185, spec/43_adc_commands.md R201: the reads whose result
is bytes: the payload stands in `RESBUF`, and `RES` is its first byte, decoded as the op says; `RAWRD` writes no `RES`. -/
def Obligations.ByteReadsReturnThePayload : Prop :=
  ∀ (i : Instr) (s : State) (v : Byte),
    (i = .rawrd ∨ ((i = .rlyget ∨ i = .bnkget ∨ i = .ad8one) ∧ s.blk.rxlen.toNat = 4)) →
    s.blk.cmd = encode i → LastByte s v → isValid (received s v) = true →
    ∃ t, step s = .next t ∧ EndedOk s t v
      ∧ t.blk.rlen.toNat = s.blk.rxlen.toNat - 3 ∧ t.blk.ad = s.blk.ad
      ∧ (i = .rawrd → Yields t none (payload (received s v)) [] ∧ t.blk.res = s.blk.res)
      ∧ (i = .rlyget →
          Yields t (some (if (payload (received s v)).getD 0 0 = 1#8 then 1#8 else 0#8)) (payload (received s v)) [])
      ∧ (i = .bnkget ∨ i = .ad8one →
          Yields t (some ((payload (received s v)).getD 0 0)) (payload (received s v)) [])

/-- spec/43_adc_commands.md R202, R204: the read-all ops, with all eight slots. -/
def Obligations.AllAdcReadsFillTheEightSlots : Prop :=
  ∀ (s : State) (v : Byte), LastByte s v → isValid (received s v) = true →
    (s.blk.cmd = encode .ad8all → s.blk.rxlen.toNat = 11 →
      ∃ t, step s = .next t ∧ EndedOk s t v ∧ t.blk.rlen = 8 ∧ t.blk.res = s.blk.res
        ∧ Yields t none (payload (received s v))
            ((List.range 8).map fun k => ((payload (received s v)).getD k 0).toNat))
    ∧ (s.blk.cmd = encode .ad10all → s.blk.rxlen.toNat = 19 →
      ∃ t, step s = .next t ∧ EndedOk s t v ∧ t.blk.rlen = 16 ∧ t.blk.res = s.blk.res
        ∧ Yields t none (payload (received s v)) (samplesOf (payload (received s v)) 8))

/-- spec/43_adc_commands.md R203, spec/60_exceptions.md R235: `AD10ONE` with a 2-byte payload gives a sample; with a 1-byte
payload it ends `SHORT`, without `STALE` and without a sample. That `RESBUF` is then as an earlier op left it is
spec/60_exceptions.md R242, which the model follows where R203's pseudocode would have copied the payload (log entry 7). -/
def Obligations.AdTenOneDecodesTwoBytesOrEndsShort : Prop :=
  ∀ (s : State) (v : Byte), s.blk.cmd = encode .ad10one → LastByte s v → isValid (received s v) = true →
    (s.blk.rxlen.toNat = 5 →
      ∃ t, step s = .next t ∧ EndedOk s t v ∧ t.blk.rlen = 2 ∧ t.blk.res = s.blk.res
        ∧ Yields t none (payload (received s v)) (samplesOf (payload (received s v)) 1)
        ∧ ∀ k : Fin 8, k ≠ 0 → t.blk.ad[k] = s.blk.ad[k])
    ∧ (s.blk.rxlen.toNat = 4 →
      ∃ t, step s = .next t ∧ Ended s t v ∧ t.blk.err = .short ∧ t.blk.errinfo = 0 ∧ t.blk.rlen = 0
        ∧ t.blk.status.ok = false ∧ t.blk.status.stale = s.blk.status.stale ∧ ResultsKept s t
        ∧ resultOf t.blk = none)

/-- spec/20_memory.md R69: an FE step does not see the channel it is not using. -/
def Obligations.TheUnusedChannelIsNotSeen : Prop :=
  ∀ (s : State) (tx tx' : TxEvent) (rx rx' : RxOffer) (rest : List Turn),
    (s.blk.phase ≠ .rx → step { s with turns := .fe tx rx :: rest } = step { s with turns := .fe tx rx' :: rest })
    ∧ (s.blk.phase ≠ .tx → step { s with turns := .fe tx rx :: rest } = step { s with turns := .fe tx' rx :: rest })

/-- spec/41_exchange.md R163, spec/60_exceptions.md R239: `cancel` is read only by FE steps in `TX` and `RX`: any other move
does the same at both levels. -/
def Obligations.CancelIsReadOnlyInTxAndRxSteps : Prop :=
  ∀ (s t : State) (c : Bool), (s.blk.phase = .idle ∨ ∀ tx rx rest, s.turns ≠ .fe tx rx :: rest) →
    step s = .next t → ∃ t', step { s with cancel := c } = .next t' ∧ t' = { t with cancel := t'.cancel }

/-- spec/41_exchange.md R155: what `OK` = 1 at the end of an exchange implies, from every state that meets the invariant. -/
def Obligations.AnExchangeThatEndsOkReceivedAValidResponse : Prop :=
  ∀ s t : State, RunInv s → step s = .next t → s.blk.status.busy = true → t.blk.status.ok = true →
    t.blk.rxcnt = t.blk.rxlen ∧ t.blk.rxlen = s.blk.rxlen ∧ t.blk.vflags.valid = true
    ∧ isValid (responseBytes t.blk) = true
    ∧ readByte t.blk.mem .rxbuf 0 = 0xAA#8 ∧ (readByte t.blk.mem .rxbuf 1).toNat = t.blk.rxlen.toNat - 3

/-- spec/41_exchange.md R156: every transition of `PHASE` is one of the table, from every state that meets the invariant. -/
def Obligations.PhaseMovesOnlyAsTheTableSays : Prop :=
  ∀ s t : State, RunInv s → step s = .next t →
    (s.blk.phase = .idle → t.blk.phase ≠ .rx)
    ∧ (s.blk.phase = .rx → t.blk.phase ≠ .tx)
    ∧ (s.blk.phase = .idle → t.blk.phase = .tx →
        ∃ n v h rest i, s.turns = .host :: rest ∧ s.host = .wr n v :: h ∧ regOfNumber n = some .cmd
          ∧ decode (BitVec.ofNat 8 v) = .op i ∧ isExchange i = true)
    ∧ (s.blk.phase = .tx → t.blk.phase = .rx →
        (∃ rx rest, s.turns = .fe .ready rx :: rest) ∧ s.blk.txcnt.toNat + 1 = s.blk.txlen.toNat)
    ∧ (s.blk.phase = .tx → t.blk.phase = .idle →
        AtReset t.blk ∨ (s.cancel = true ∧ t.blk.err = .timeout) ∨ ((∃ e rx rest, s.turns = .fe (.err e) rx :: rest) ∧ t.blk.err = .io))
    ∧ (s.blk.phase = .rx → t.blk.phase = .idle →
        AtReset t.blk ∨ (s.cancel = true ∧ t.blk.err = .timeout) ∨ ((∃ e tx rest, s.turns = .fe tx (.err e) :: rest) ∧ t.blk.err = .io)
        ∨ (s.blk.rxcnt.toNat + 1 = s.blk.rxlen.toNat
            ∧ (t.blk.status.ok = true ∨ t.blk.err = .invalid ∨ t.blk.err = .short)))

/-- spec/60_exceptions.md R242: an exchange that ends with an error, whichever it is, writes no result register but `RLEN`, and
no byte of `RESBUF`. (For `SHORT` log entry 7 says why the model follows R242.) -/
def Obligations.ErrorsLeaveResultsAlone : Prop :=
  ∀ s t : State, step s = .next t → s.blk.phase ≠ .idle → t.blk.status.done = true → t.blk.status.ok = false →
    s.blk.status.done = false →
    ResultsKept s t ∧ t.blk.rlen = 0

/-- spec/10_state.md R30, R22, spec/70_reset_and_hazards.md R282: from every state that meets the invariant, after any step the
last op has either a result or an error and only once it is `DONE`, and a result stays as it is until HOST writes `CMD`
or the block is reset. -/
def Obligations.ResultsAreReadableOnlyWithOk : Prop :=
  ∀ s t : State, RunInv s → step s = .next t →
    (t.blk.status.done = false → resultOf t.blk = none)
    ∧ (t.blk.status.done = true →
        ((∃ r, resultOf t.blk = some r) ∧ t.blk.status.ok = true ∧ t.blk.err = .none)
        ∨ (resultOf t.blk = none ∧ t.blk.status.ok = false ∧ t.blk.err ≠ .none))
    ∧ ∀ r, resultOf s.blk = some r →
        resultOf t.blk = some r ∨ AtReset t.blk
        ∨ ∃ v h rest, s.turns = .host :: rest ∧ s.host = .wr 0x00 v :: h

/-- spec/20_memory.md R67, R68, R77, R82: only the sequencer touches the stream: the bytes sent grow by `TXBUF[TXCNT]` in `TX`
and in no other way, and a held byte is read, oldest first, only in `RX`; `drain` is the platform's. -/
def Obligations.OnlyTheSequencerTouchesTheStream : Prop :=
  ∀ s t : State, step s = .next t →
    (t.stream.sent = s.stream.sent
      ∨ (s.blk.phase = .tx ∧ t.blk.txcnt = s.blk.txcnt + 1
          ∧ t.stream.sent = s.stream.sent ++ [readByte s.blk.mem .txbuf s.blk.txcnt.toNat]))
    ∧ (t.stream.held = s.stream.held
      ∨ (∃ b rest, s.turns = .arrive b :: rest ∧ t.stream.held = s.stream.held ++ [b])
      ∨ (∃ rest, s.turns = .drain :: rest ∧ t.stream.held = [])
      ∨ (s.blk.phase = .rx ∧ ∃ b, s.stream.held = b :: t.stream.held))

/-- spec/00_scope.md R4, spec/41_exchange.md R150 to R160, spec/30_encoding.md R109: with `cancel` low and a stream that accepts
every byte and then delivers a valid response of the expected length, every exchange op whose operands its guard accepts
sends its table row's frame and ends `OK` with its row's decoded result. -/
def Obligations.FriendlyExchangeSendsTheRowAndDecodesIt : Prop :=
  ∀ (i : Instr) (s : State) (p resp more : List Byte) (total : Nat) (hs : List HostOp) (rest : List Turn),
    requestOf s.cfg s.blk i = some (p, total) → (i = .ad10one → s.cfg.ad10oneNreq = .two) →
    s.rst = false → s.cancel = false → s.blk.status.busy = false →
    s.host = .wr 0x00 (encode i).toNat :: hs →
    s.turns = .host :: (List.replicate (p.length + 3) (.fe .ready .empty)
      ++ (List.replicate total (.fe .busy .deliver) ++ rest)) →
    s.stream.held = resp ++ more → resp.length = total → isValid resp = true →
    ∃ t, Host.Core.run Sys2Proof.core (1 + (p.length + 3) + total) s = .next t
      ∧ t.blk.phase = .idle ∧ t.blk.status = { s.blk.status with busy := false, done := true, ok := true }
      ∧ t.blk.err = .none ∧ t.blk.cmd = encode i
      ∧ t.stream.sent = s.stream.sent ++ frame p ∧ t.stream.held = more
      ∧ responseBytes t.blk = resp
      ∧ Decoded109 i (payload resp) s t
      ∧ t.host = hs ∧ t.turns = rest

/-! ## HOST -/

/-- spec/10_state.md R34, R35: a step in which HOST writes an op code to `CMD` while the block is not busy is the op, the access
and the move being used up; `withFetchWord` sets up such a step. -/
def Obligations.StepRunsTheDecodedOp : Prop :=
  (∀ (s : State) (v : Nat) (i : Instr) (h : List HostOp) (rest : List Turn),
    s.rst = false → s.blk.status.busy = false → s.turns = .host :: rest → s.host = .wr 0x00 v :: h →
    decode (BitVec.ofNat 8 v) = .op i →
    step s = exec i { s with turns := rest, host := h })
  ∧ ∀ (s : State) (w : Nat) (i : Instr), decodeTableWord 8 w = some i →
      step (s.withFetchWord 8 w)
        = exec i { s with
            rst := false, blk := { s.blk with phase := .idle, status := { s.blk.status with busy := false } } }

/-- spec/10_state.md R32, R35, R39: the writes that are refused (`CMD`, `RXLEN`, `RXBUF` while busy; a read-only register;
`TXBUF`, `RESBUF`; an unmapped number) set `HOSTERR` and do nothing else. -/
def Obligations.RefusedWritesSetHosterrOnly : Prop :=
  ∀ (s : State) (n v : Nat) (h : List HostOp) (rest : List Turn),
    s.rst = false → s.turns = .host :: rest → s.host = .wr n v :: h →
    (regOfNumber n = none
      ∨ (∃ r, regOfNumber n = some r ∧ readOnly r)
      ∨ (∃ r, regOfNumber n = some r ∧ (regAccess r = .cmd ∨ regAccess r = .rwi) ∧ s.blk.status.busy = true)) →
    step s = .next { s with
      turns := rest, host := h, blk := { s.blk with status := { s.blk.status with hosterr := true } } }

/-- spec/10_state.md R21, R34, R38: a HOST write to a read-write register stores the value modulo 2^width, whatever the block is
doing, and changes nothing else. -/
def Obligations.OperandWritesStoreModuloWidth : Prop :=
  ∀ (s : State) (n v : Nat) (h : List HostOp) (rest : List Turn),
    s.rst = false → s.turns = .host :: rest → s.host = .wr n v :: h →
    (n = 0x08 → step s = .next { s with turns := rest, host := h, blk := { s.blk with relay := BitVec.ofNat 16 (v % 2 ^ 16) } })
    ∧ (n = 0x09 → step s = .next { s with turns := rest, host := h, blk := { s.blk with bank := BitVec.ofNat 8 (v % 2 ^ 8) } })
    ∧ (n = 0x0A → step s = .next { s with turns := rest, host := h, blk := { s.blk with bstat := BitVec.ofNat 8 (v % 2 ^ 8) } })
    ∧ (n = 0x0B → step s = .next { s with turns := rest, host := h, blk := { s.blk with index := BitVec.ofNat 8 (v % 2 ^ 8) } })
    ∧ (n = 0x0C → step s = .next { s with turns := rest, host := h, blk := { s.blk with chan := BitVec.ofNat 8 (v % 2 ^ 8) } })
    ∧ (n = 0x0D → step s = .next { s with turns := rest, host := h, blk := { s.blk with nreq := BitVec.ofNat 8 (v % 2 ^ 8) } })
    ∧ (n = 0x10 → step s = .next { s with turns := rest, host := h, blk := { s.blk with plen := BitVec.ofNat 9 (v % 2 ^ 9) } })

/-- spec/10_state.md R40, R42, spec/20_memory.md R74: HOST's writes to `PBUF`, and to `RXBUF` and `RXLEN` while the block is not
busy: one byte, or one length, and `VFLAGS` cleared by the last two. -/
def Obligations.BufferWritesStoreOneByte : Prop :=
  ∀ (s : State) (v : Nat) (h : List HostOp) (rest : List Turn) (k : Nat),
    s.rst = false → s.turns = .host :: rest →
    (s.host = .wr (0x100 + k) v :: h → k < 255 →
      ∃ m, step s = .next { s with turns := rest, host := h, blk := { s.blk with mem := m } }
        ∧ readByte m .pbuf k = BitVec.ofNat 8 v
        ∧ ∀ b i, ¬ (b = .pbuf ∧ i = k) → readByte m b i = readByte s.blk.mem b i)
    ∧ (s.host = .wr (0x400 + k) v :: h → k < 258 → s.blk.status.busy = false →
      ∃ m, step s = .next { s with turns := rest, host := h, blk := { s.blk with mem := m, vflags := VFlags.clear } }
        ∧ readByte m .rxbuf k = BitVec.ofNat 8 v
        ∧ ∀ b i, ¬ (b = .rxbuf ∧ i = k) → readByte m b i = readByte s.blk.mem b i)
    ∧ (s.host = .wr 0x13 v :: h → s.blk.status.busy = false →
      step s = .next { s with
        turns := rest, host := h, blk := { s.blk with rxlen := BitVec.ofNat 9 v, vflags := VFlags.clear } })

/-- spec/10_state.md R34, R39, spec/20_memory.md R74: a HOST read returns the register of that number, zero-extended within its
width, and changes nothing but what HOST has read; the numbers are R34's. The reads the spec leaves unspecified (an
unmapped number, `RXBUF` at or above `RXCNT` in `RX`, `RESBUF` at or above `RLEN`) are left out of the value, not of the
frame. -/
def Obligations.HostReadsHaveNoSideEffect : Prop :=
  ∀ (s : State) (n : Nat) (h : List HostOp) (rest : List Turn),
    s.rst = false → s.turns = .host :: rest → s.host = .rd n :: h →
    ∃ x, step s = .next { s with turns := rest, host := h, reads := s.reads ++ [x], readCount := s.readCount + 1 }
      ∧ (n = 0x00 → x = s.blk.cmd.toNat)
      ∧ (n = 0x01 → x = s.blk.status.busy.toNat + 2 * s.blk.status.done.toNat + 4 * s.blk.status.ok.toNat
          + 8 * s.blk.status.stale.toNat + 16 * s.blk.status.hosterr.toNat)
      ∧ (n = 0x02 → x = errCode s.blk.err)
      ∧ (n = 0x03 → x = s.blk.errinfo)
      ∧ (n = 0x04 → x = s.blk.vflags.size.toNat + 2 * s.blk.vflags.hs.toNat + 4 * s.blk.vflags.len.toNat
          + 8 * s.blk.vflags.chk.toNat + 16 * s.blk.vflags.valid.toNat)
      ∧ (n = 0x05 → x = phaseCode s.blk.phase)
      ∧ (n = 0x08 → x = s.blk.relay.toNat)
      ∧ (n = 0x09 → x = s.blk.bank.toNat)
      ∧ (n = 0x0A → x = s.blk.bstat.toNat)
      ∧ (n = 0x0B → x = s.blk.index.toNat)
      ∧ (n = 0x0C → x = s.blk.chan.toNat)
      ∧ (n = 0x0D → x = s.blk.nreq.toNat)
      ∧ (n = 0x10 → x = s.blk.plen.toNat)
      ∧ (n = 0x11 → x = s.blk.txlen.toNat)
      ∧ (n = 0x12 → x = s.blk.txcnt.toNat)
      ∧ (n = 0x13 → x = s.blk.rxlen.toNat)
      ∧ (n = 0x14 → x = s.blk.rxcnt.toNat)
      ∧ (n = 0x18 → x = s.blk.rlen.toNat)
      ∧ (n = 0x19 → x = s.blk.res.toNat)
      ∧ (∀ k : Fin 8, n = 0x20 + k.val → x = (s.blk.ad[k]).toNat)
      ∧ (∀ k, k < 255 → n = 0x100 + k → x = (readByte s.blk.mem .pbuf k).toNat)
      ∧ (∀ k, k < 258 → n = 0x200 + k → x = (readByte s.blk.mem .txbuf k).toNat)
      ∧ (∀ k, k < 258 → n = 0x400 + k → (s.blk.phase = .rx → k < s.blk.rxcnt.toNat) →
          x = (readByte s.blk.mem .rxbuf k).toNat)
      ∧ (∀ k, k < s.blk.rlen.toNat → n = 0x600 + k → x = (readByte s.blk.mem .resbuf k).toNat)
      ∧ ∀ r, regOfNumber n = some r → FlagsOk s.cfg s.blk → x < 2 ^ regWidth s.cfg r

/-- spec/10_state.md R27, R33, R25, R36: the flag registers and codes as numbers; bits 7:5 read 0. -/
def Obligations.FlagRegistersReadBitByBit : Prop :=
  (∀ s : State,
    readReg s .status < 32
    ∧ (readReg s .status).testBit 0 = s.blk.status.busy ∧ (readReg s .status).testBit 1 = s.blk.status.done
    ∧ (readReg s .status).testBit 2 = s.blk.status.ok ∧ (readReg s .status).testBit 3 = s.blk.status.stale
    ∧ (readReg s .status).testBit 4 = s.blk.status.hosterr
    ∧ readReg s .vflags < 32
    ∧ (readReg s .vflags).testBit 0 = s.blk.vflags.size ∧ (readReg s .vflags).testBit 1 = s.blk.vflags.hs
    ∧ (readReg s .vflags).testBit 2 = s.blk.vflags.len ∧ (readReg s .vflags).testBit 3 = s.blk.vflags.chk
    ∧ (readReg s .vflags).testBit 4 = s.blk.vflags.valid)
  ∧ phaseCode .idle = 0 ∧ phaseCode .tx = 1 ∧ phaseCode .rx = 2
  ∧ errCode .none = 0 ∧ errCode .invalid = 1 ∧ errCode .timeout = 2 ∧ errCode .io = 3 ∧ errCode .arg = 4
  ∧ errCode .short = 5

/-- spec/20_memory.md R81, spec/10_state.md R39: no HOST move changes an op in flight. -/
def Obligations.HostMovesDoNotTouchAnOpInFlight : Prop :=
  ∀ (s t : State) (rest : List Turn), SeqOk s.blk → s.blk.phase ≠ .idle → s.rst = false →
    s.turns = .host :: rest → step s = .next t →
    t.blk.cmd = s.blk.cmd ∧ t.blk.phase = s.blk.phase ∧ t.blk.txcnt = s.blk.txcnt ∧ t.blk.rxcnt = s.blk.rxcnt
    ∧ t.blk.txlen = s.blk.txlen ∧ t.blk.rxlen = s.blk.rxlen ∧ t.blk.vflags = s.blk.vflags
    ∧ t.blk.err = s.blk.err ∧ t.blk.errinfo = s.blk.errinfo
    ∧ t.blk.status = { s.blk.status with hosterr := t.blk.status.hosterr }
    ∧ t.blk.res = s.blk.res ∧ t.blk.rlen = s.blk.rlen ∧ t.blk.ad = s.blk.ad ∧ t.stream = s.stream
    ∧ ∀ b i, b ≠ .pbuf → readByte t.blk.mem b i = readByte s.blk.mem b i

/-- spec/10_state.md R21: the FE never writes an operand register: only HOST's move and reset do. -/
def Obligations.OperandsAreWrittenOnlyByHostAndReset : Prop :=
  ∀ s t : State, step s = .next t → (∀ rest, s.turns ≠ .host :: rest) → ¬ AtReset t.blk →
    operands t.blk = operands s.blk ∧ t.blk.plen = s.blk.plen
    ∧ ∀ i, readByte t.blk.mem .pbuf i = readByte s.blk.mem .pbuf i

/-! ## Reset -/

/-- spec/10_state.md R53, R34: the state after reset; every register reads 0. The stream, `cancel` and the moves to come are the
environment's (log entries 5 and 6) and are not stated. -/
def Obligations.ResetStateIsTheResetColumn : Prop :=
  AtReset State.reset.blk
  ∧ (∀ r : Reg, (∀ k, r ≠ .pbuf k) → (∀ k, r ≠ .txbuf k) → (∀ k, r ≠ .rxbuf k) → (∀ k, r ≠ .resbuf k) →
      readReg State.reset r = 0)

/-- spec/70_reset_and_hazards.md R270, R271: while `rst` is 1 the block is in the reset state whatever it was doing, no byte is
sent and none is read. That the very move that raises `rst` already does so is the model's reading (log entry 15), and
`drain` is the model's move (log entry 2). -/
def Obligations.HardResetWinsOverEverything : Prop :=
  ∀ s : State, (s.rst = true ∧ (∀ rest, s.turns ≠ .rst false :: rest)) ∨ (∃ rest, s.turns = .rst true :: rest) →
    ∃ t, step s = .next t ∧ AtReset t.blk ∧ t.rst = true ∧ t.stream.sent = s.stream.sent
      ∧ (s.stream.held <+: t.stream.held ∨ ∃ rest, s.turns = .drain :: rest)

/-! ## Whole-machine rules and invariants -/

/-- spec/93_implementation_defined.md section 1: "the model never needs to stop". -/
def Obligations.EveryStepHasANextState : Prop :=
  ∀ s : State, ∃ t, step s = .next t ∧ t.cfg = s.cfg

/-- spec/10_state.md R31: `STALE` is cleared only by `CLRSTALE`, `SRESET` and reset, and set only by the end of an exchange with
`INVALID`, or with `TIMEOUT` or `IO` after a byte was sent. -/
def Obligations.StaleIsSticky : Prop :=
  ∀ s t : State, step s = .next t →
    (s.blk.status.stale = true → t.blk.status.stale = false →
      AtReset t.blk ∨ t.blk.cmd = encode .clrstale)
    ∧ (s.blk.status.stale = false → t.blk.status.stale = true →
        s.blk.phase ≠ .idle
        ∧ (t.blk.err = .invalid ∨ ((t.blk.err = .timeout ∨ t.blk.err = .io) ∧ 0 < s.blk.txcnt.toNat)))

/-- spec/10_state.md R32, R27: `HOSTERR` is sticky: once set, only reset and `SRESET` clear it; and only HOST's move sets it. -/
def Obligations.HosterrIsSticky : Prop :=
  ∀ s t : State, step s = .next t →
    (s.blk.status.hosterr = true → t.blk.status.hosterr = false → AtReset t.blk)
    ∧ (s.blk.status.hosterr = false → t.blk.status.hosterr = true →
        ∃ n v h rest, s.turns = .host :: rest ∧ s.host = .wr n v :: h)

/-- The canonical form of the memory is kept by every step from every state that has it. -/
def Obligations.StepKeepsMemoryCanonical : Prop :=
  ∀ s t : State, MemOk s → step s = .next t → MemOk t

/-- The sequencer's invariant (spec/10_state.md R24, R25, R28; spec/41_exchange.md R151 to R153) is kept by every step. -/
def Obligations.StepKeepsTheSequencerConsistent : Prop :=
  ∀ s t : State, SeqOk s.blk → step s = .next t → SeqOk t.blk

/-- The whole invariant is kept by every step: memory, sequencer, one outcome (spec/10_state.md R29, R30), trust in `VALID`
(R33) and the wire (spec/60_exceptions.md R241). -/
def Obligations.StepKeepsTheInvariant : Prop :=
  ∀ s t : State, RunInv s → step s = .next t → RunInv t

/-- The invariant holds after reset, for every value of the parameters. -/
def Obligations.ResetMeetsTheInvariant : Prop :=
  ∀ c : Config, RunInv { State.reset with cfg := c }

/-- spec/60_exceptions.md R241: after `TIMEOUT` or `IO` the bytes sent last are `TXBUF[0..TXCNT)`, a prefix of the request, the
whole of it exactly when `TXCNT` = `TXLEN`. -/
def Obligations.AfterTimeoutOrIoAPrefixWasSent : Prop :=
  ∀ s t : State, RunInv s → step s = .next t → s.blk.phase ≠ .idle → (t.blk.err = .timeout ∨ t.blk.err = .io) →
    t.stream.sent = s.stream.sent ∧ t.blk.txcnt = s.blk.txcnt
    ∧ readBytes t.blk.mem .txbuf 0 t.blk.txcnt.toNat <:+ t.stream.sent
    ∧ readBytes t.blk.mem .txbuf 0 t.blk.txcnt.toNat <+: requestBytes t.blk
    ∧ (t.blk.txcnt.toNat = t.blk.txlen.toNat ↔ s.blk.phase = .rx)
end

