-- ==== Sys2Proof/Laws/State.lean ====
section
/-! SUPPORT. One lemma per field per update, true by unfolding once, so that no later proof unfolds a record update. -/

namespace Sys2Proof.Machine

@[simp] theorem withBlk_blk (s : State) (b : Block) : (withBlk s b).blk = b := rfl
@[simp] theorem withBlk_cfg (s : State) (b : Block) : (withBlk s b).cfg = s.cfg := rfl
@[simp] theorem withBlk_cancel (s : State) (b : Block) : (withBlk s b).cancel = s.cancel := rfl
@[simp] theorem withBlk_rst (s : State) (b : Block) : (withBlk s b).rst = s.rst := rfl
@[simp] theorem withBlk_stream (s : State) (b : Block) : (withBlk s b).stream = s.stream := rfl
@[simp] theorem withBlk_host (s : State) (b : Block) : (withBlk s b).host = s.host := rfl
@[simp] theorem withBlk_reads (s : State) (b : Block) : (withBlk s b).reads = s.reads := rfl
@[simp] theorem withBlk_readCount (s : State) (b : Block) : (withBlk s b).readCount = s.readCount := rfl
@[simp] theorem withBlk_turns (s : State) (b : Block) : (withBlk s b).turns = s.turns := rfl
@[simp] theorem withBlk_withBlk (s : State) (b c : Block) : withBlk (withBlk s b) c = withBlk s c := rfl

@[simp] theorem accept_relay (c : Byte) (b : Block) : (accept c b).relay = b.relay := rfl
@[simp] theorem accept_bank (c : Byte) (b : Block) : (accept c b).bank = b.bank := rfl
@[simp] theorem accept_bstat (c : Byte) (b : Block) : (accept c b).bstat = b.bstat := rfl
@[simp] theorem accept_index (c : Byte) (b : Block) : (accept c b).index = b.index := rfl
@[simp] theorem accept_chan (c : Byte) (b : Block) : (accept c b).chan = b.chan := rfl
@[simp] theorem accept_nreq (c : Byte) (b : Block) : (accept c b).nreq = b.nreq := rfl
@[simp] theorem accept_res (c : Byte) (b : Block) : (accept c b).res = b.res := rfl
@[simp] theorem accept_rlen (c : Byte) (b : Block) : (accept c b).rlen = b.rlen := rfl
@[simp] theorem accept_ad (c : Byte) (b : Block) : (accept c b).ad = b.ad := rfl
@[simp] theorem accept_phase (c : Byte) (b : Block) : (accept c b).phase = b.phase := rfl
@[simp] theorem accept_txcnt (c : Byte) (b : Block) : (accept c b).txcnt = b.txcnt := rfl
@[simp] theorem accept_rxcnt (c : Byte) (b : Block) : (accept c b).rxcnt = b.rxcnt := rfl
@[simp] theorem accept_status (c : Byte) (b : Block) :
    (accept c b).status = { b.status with done := false, ok := false } := rfl
@[simp] theorem accept_vflags (c : Byte) (b : Block) : (accept c b).vflags = b.vflags := rfl
@[simp] theorem accept_cmd (c : Byte) (b : Block) : (accept c b).cmd = c := rfl
@[simp] theorem accept_err (c : Byte) (b : Block) : (accept c b).err = .none := rfl
@[simp] theorem accept_errinfo (c : Byte) (b : Block) : (accept c b).errinfo = 0 := rfl
@[simp] theorem accept_plen (c : Byte) (b : Block) : (accept c b).plen = b.plen := rfl
@[simp] theorem accept_txlen (c : Byte) (b : Block) : (accept c b).txlen = b.txlen := rfl
@[simp] theorem accept_rxlen (c : Byte) (b : Block) : (accept c b).rxlen = b.rxlen := rfl
@[simp] theorem accept_mem (c : Byte) (b : Block) : (accept c b).mem = b.mem := rfl

@[simp] theorem completeOk_relay (b : Block) : (completeOk b).relay = b.relay := rfl
@[simp] theorem completeOk_bank (b : Block) : (completeOk b).bank = b.bank := rfl
@[simp] theorem completeOk_bstat (b : Block) : (completeOk b).bstat = b.bstat := rfl
@[simp] theorem completeOk_index (b : Block) : (completeOk b).index = b.index := rfl
@[simp] theorem completeOk_chan (b : Block) : (completeOk b).chan = b.chan := rfl
@[simp] theorem completeOk_nreq (b : Block) : (completeOk b).nreq = b.nreq := rfl
@[simp] theorem completeOk_res (b : Block) : (completeOk b).res = b.res := rfl
@[simp] theorem completeOk_rlen (b : Block) : (completeOk b).rlen = b.rlen := rfl
@[simp] theorem completeOk_ad (b : Block) : (completeOk b).ad = b.ad := rfl
@[simp] theorem completeOk_phase (b : Block) : (completeOk b).phase = .idle := rfl
@[simp] theorem completeOk_txcnt (b : Block) : (completeOk b).txcnt = b.txcnt := rfl
@[simp] theorem completeOk_rxcnt (b : Block) : (completeOk b).rxcnt = b.rxcnt := rfl
@[simp] theorem completeOk_status (b : Block) :
    (completeOk b).status = { b.status with busy := false, done := true, ok := true } := rfl
@[simp] theorem completeOk_vflags (b : Block) : (completeOk b).vflags = b.vflags := rfl
@[simp] theorem completeOk_cmd (b : Block) : (completeOk b).cmd = b.cmd := rfl
@[simp] theorem completeOk_err (b : Block) : (completeOk b).err = b.err := rfl
@[simp] theorem completeOk_errinfo (b : Block) : (completeOk b).errinfo = b.errinfo := rfl
@[simp] theorem completeOk_plen (b : Block) : (completeOk b).plen = b.plen := rfl
@[simp] theorem completeOk_txlen (b : Block) : (completeOk b).txlen = b.txlen := rfl
@[simp] theorem completeOk_rxlen (b : Block) : (completeOk b).rxlen = b.rxlen := rfl
@[simp] theorem completeOk_mem (b : Block) : (completeOk b).mem = b.mem := rfl

@[simp] theorem raise_relay (k : ErrKind) (n : Nat) (b : Block) : (raise k n b).relay = b.relay := rfl
@[simp] theorem raise_bank (k : ErrKind) (n : Nat) (b : Block) : (raise k n b).bank = b.bank := rfl
@[simp] theorem raise_bstat (k : ErrKind) (n : Nat) (b : Block) : (raise k n b).bstat = b.bstat := rfl
@[simp] theorem raise_index (k : ErrKind) (n : Nat) (b : Block) : (raise k n b).index = b.index := rfl
@[simp] theorem raise_chan (k : ErrKind) (n : Nat) (b : Block) : (raise k n b).chan = b.chan := rfl
@[simp] theorem raise_nreq (k : ErrKind) (n : Nat) (b : Block) : (raise k n b).nreq = b.nreq := rfl
@[simp] theorem raise_res (k : ErrKind) (n : Nat) (b : Block) : (raise k n b).res = b.res := rfl
@[simp] theorem raise_rlen (k : ErrKind) (n : Nat) (b : Block) : (raise k n b).rlen = 0 := rfl
@[simp] theorem raise_ad (k : ErrKind) (n : Nat) (b : Block) : (raise k n b).ad = b.ad := rfl
@[simp] theorem raise_phase (k : ErrKind) (n : Nat) (b : Block) : (raise k n b).phase = .idle := rfl
@[simp] theorem raise_txcnt (k : ErrKind) (n : Nat) (b : Block) : (raise k n b).txcnt = b.txcnt := rfl
@[simp] theorem raise_rxcnt (k : ErrKind) (n : Nat) (b : Block) : (raise k n b).rxcnt = b.rxcnt := rfl
@[simp] theorem raise_status (k : ErrKind) (n : Nat) (b : Block) :
    (raise k n b).status = { b.status with busy := false, done := true, ok := false, stale := b.status.stale || setsStale k b } := rfl
@[simp] theorem raise_vflags (k : ErrKind) (n : Nat) (b : Block) : (raise k n b).vflags = b.vflags := rfl
@[simp] theorem raise_cmd (k : ErrKind) (n : Nat) (b : Block) : (raise k n b).cmd = b.cmd := rfl
@[simp] theorem raise_err (k : ErrKind) (n : Nat) (b : Block) : (raise k n b).err = k := rfl
@[simp] theorem raise_errinfo (k : ErrKind) (n : Nat) (b : Block) :
    (raise k n b).errinfo = if k = .io then n else 0 := rfl
@[simp] theorem raise_plen (k : ErrKind) (n : Nat) (b : Block) : (raise k n b).plen = b.plen := rfl
@[simp] theorem raise_txlen (k : ErrKind) (n : Nat) (b : Block) : (raise k n b).txlen = b.txlen := rfl
@[simp] theorem raise_rxlen (k : ErrKind) (n : Nat) (b : Block) : (raise k n b).rxlen = b.rxlen := rfl
@[simp] theorem raise_mem (k : ErrKind) (n : Nat) (b : Block) : (raise k n b).mem = b.mem := rfl

@[simp] theorem doBuild_relay (b : Block) : (doBuild b).relay = b.relay := rfl
@[simp] theorem doBuild_bank (b : Block) : (doBuild b).bank = b.bank := rfl
@[simp] theorem doBuild_bstat (b : Block) : (doBuild b).bstat = b.bstat := rfl
@[simp] theorem doBuild_index (b : Block) : (doBuild b).index = b.index := rfl
@[simp] theorem doBuild_chan (b : Block) : (doBuild b).chan = b.chan := rfl
@[simp] theorem doBuild_nreq (b : Block) : (doBuild b).nreq = b.nreq := rfl
@[simp] theorem doBuild_res (b : Block) : (doBuild b).res = b.res := rfl
@[simp] theorem doBuild_rlen (b : Block) : (doBuild b).rlen = b.rlen := rfl
@[simp] theorem doBuild_ad (b : Block) : (doBuild b).ad = b.ad := rfl
@[simp] theorem doBuild_phase (b : Block) : (doBuild b).phase = b.phase := rfl
@[simp] theorem doBuild_txcnt (b : Block) : (doBuild b).txcnt = b.txcnt := rfl
@[simp] theorem doBuild_rxcnt (b : Block) : (doBuild b).rxcnt = b.rxcnt := rfl
@[simp] theorem doBuild_status (b : Block) : (doBuild b).status = b.status := rfl
@[simp] theorem doBuild_vflags (b : Block) : (doBuild b).vflags = b.vflags := rfl
@[simp] theorem doBuild_cmd (b : Block) : (doBuild b).cmd = b.cmd := rfl
@[simp] theorem doBuild_err (b : Block) : (doBuild b).err = b.err := rfl
@[simp] theorem doBuild_errinfo (b : Block) : (doBuild b).errinfo = b.errinfo := rfl
@[simp] theorem doBuild_plen (b : Block) : (doBuild b).plen = b.plen := rfl
@[simp] theorem doBuild_txlen (b : Block) : (doBuild b).txlen = BitVec.ofNat 9 (b.plen.toNat + 3) := rfl
@[simp] theorem doBuild_rxlen (b : Block) : (doBuild b).rxlen = b.rxlen := rfl
@[simp] theorem doBuild_mem (b : Block) : (doBuild b).mem = loadBytes b.mem .txbuf (frame (payloadBytes b)) := rfl

@[simp] theorem doCheck_relay (b : Block) : (doCheck b).relay = b.relay := rfl
@[simp] theorem doCheck_bank (b : Block) : (doCheck b).bank = b.bank := rfl
@[simp] theorem doCheck_bstat (b : Block) : (doCheck b).bstat = b.bstat := rfl
@[simp] theorem doCheck_index (b : Block) : (doCheck b).index = b.index := rfl
@[simp] theorem doCheck_chan (b : Block) : (doCheck b).chan = b.chan := rfl
@[simp] theorem doCheck_nreq (b : Block) : (doCheck b).nreq = b.nreq := rfl
@[simp] theorem doCheck_res (b : Block) : (doCheck b).res = b.res := rfl
@[simp] theorem doCheck_rlen (b : Block) : (doCheck b).rlen = b.rlen := rfl
@[simp] theorem doCheck_ad (b : Block) : (doCheck b).ad = b.ad := rfl
@[simp] theorem doCheck_phase (b : Block) : (doCheck b).phase = b.phase := rfl
@[simp] theorem doCheck_txcnt (b : Block) : (doCheck b).txcnt = b.txcnt := rfl
@[simp] theorem doCheck_rxcnt (b : Block) : (doCheck b).rxcnt = b.rxcnt := rfl
@[simp] theorem doCheck_status (b : Block) : (doCheck b).status = b.status := rfl
@[simp] theorem doCheck_vflags (b : Block) : (doCheck b).vflags = checkFlags (responseBytes b) := rfl
@[simp] theorem doCheck_cmd (b : Block) : (doCheck b).cmd = b.cmd := rfl
@[simp] theorem doCheck_err (b : Block) : (doCheck b).err = b.err := rfl
@[simp] theorem doCheck_errinfo (b : Block) : (doCheck b).errinfo = b.errinfo := rfl
@[simp] theorem doCheck_plen (b : Block) : (doCheck b).plen = b.plen := rfl
@[simp] theorem doCheck_txlen (b : Block) : (doCheck b).txlen = b.txlen := rfl
@[simp] theorem doCheck_rxlen (b : Block) : (doCheck b).rxlen = b.rxlen := rfl
@[simp] theorem doCheck_mem (b : Block) : (doCheck b).mem = b.mem := rfl

@[simp] theorem doPayload_relay (b : Block) : (doPayload b).relay = b.relay := rfl
@[simp] theorem doPayload_bank (b : Block) : (doPayload b).bank = b.bank := rfl
@[simp] theorem doPayload_bstat (b : Block) : (doPayload b).bstat = b.bstat := rfl
@[simp] theorem doPayload_index (b : Block) : (doPayload b).index = b.index := rfl
@[simp] theorem doPayload_chan (b : Block) : (doPayload b).chan = b.chan := rfl
@[simp] theorem doPayload_nreq (b : Block) : (doPayload b).nreq = b.nreq := rfl
@[simp] theorem doPayload_res (b : Block) : (doPayload b).res = b.res := rfl
@[simp] theorem doPayload_rlen (b : Block) : (doPayload b).rlen = BitVec.ofNat 8 (b.rxlen.toNat - 3) := rfl
@[simp] theorem doPayload_ad (b : Block) : (doPayload b).ad = b.ad := rfl
@[simp] theorem doPayload_phase (b : Block) : (doPayload b).phase = b.phase := rfl
@[simp] theorem doPayload_txcnt (b : Block) : (doPayload b).txcnt = b.txcnt := rfl
@[simp] theorem doPayload_rxcnt (b : Block) : (doPayload b).rxcnt = b.rxcnt := rfl
@[simp] theorem doPayload_status (b : Block) : (doPayload b).status = b.status := rfl
@[simp] theorem doPayload_vflags (b : Block) : (doPayload b).vflags = b.vflags := rfl
@[simp] theorem doPayload_cmd (b : Block) : (doPayload b).cmd = b.cmd := rfl
@[simp] theorem doPayload_err (b : Block) : (doPayload b).err = b.err := rfl
@[simp] theorem doPayload_errinfo (b : Block) : (doPayload b).errinfo = b.errinfo := rfl
@[simp] theorem doPayload_plen (b : Block) : (doPayload b).plen = b.plen := rfl
@[simp] theorem doPayload_txlen (b : Block) : (doPayload b).txlen = b.txlen := rfl
@[simp] theorem doPayload_rxlen (b : Block) : (doPayload b).rxlen = b.rxlen := rfl
@[simp] theorem doPayload_mem (b : Block) :
    (doPayload b).mem = loadBytes b.mem .resbuf (readBytes b.mem .rxbuf 2 (b.rxlen.toNat - 3)) := rfl

@[simp] theorem setPayload_relay (p : List Byte) (b : Block) : (setPayload p b).relay = b.relay := rfl
@[simp] theorem setPayload_bank (p : List Byte) (b : Block) : (setPayload p b).bank = b.bank := rfl
@[simp] theorem setPayload_bstat (p : List Byte) (b : Block) : (setPayload p b).bstat = b.bstat := rfl
@[simp] theorem setPayload_index (p : List Byte) (b : Block) : (setPayload p b).index = b.index := rfl
@[simp] theorem setPayload_chan (p : List Byte) (b : Block) : (setPayload p b).chan = b.chan := rfl
@[simp] theorem setPayload_nreq (p : List Byte) (b : Block) : (setPayload p b).nreq = b.nreq := rfl
@[simp] theorem setPayload_res (p : List Byte) (b : Block) : (setPayload p b).res = b.res := rfl
@[simp] theorem setPayload_rlen (p : List Byte) (b : Block) : (setPayload p b).rlen = b.rlen := rfl
@[simp] theorem setPayload_ad (p : List Byte) (b : Block) : (setPayload p b).ad = b.ad := rfl
@[simp] theorem setPayload_phase (p : List Byte) (b : Block) : (setPayload p b).phase = b.phase := rfl
@[simp] theorem setPayload_txcnt (p : List Byte) (b : Block) : (setPayload p b).txcnt = b.txcnt := rfl
@[simp] theorem setPayload_rxcnt (p : List Byte) (b : Block) : (setPayload p b).rxcnt = b.rxcnt := rfl
@[simp] theorem setPayload_status (p : List Byte) (b : Block) : (setPayload p b).status = b.status := rfl
@[simp] theorem setPayload_vflags (p : List Byte) (b : Block) : (setPayload p b).vflags = b.vflags := rfl
@[simp] theorem setPayload_cmd (p : List Byte) (b : Block) : (setPayload p b).cmd = b.cmd := rfl
@[simp] theorem setPayload_err (p : List Byte) (b : Block) : (setPayload p b).err = b.err := rfl
@[simp] theorem setPayload_errinfo (p : List Byte) (b : Block) : (setPayload p b).errinfo = b.errinfo := rfl
@[simp] theorem setPayload_plen (p : List Byte) (b : Block) : (setPayload p b).plen = BitVec.ofNat 9 p.length := rfl
@[simp] theorem setPayload_txlen (p : List Byte) (b : Block) : (setPayload p b).txlen = b.txlen := rfl
@[simp] theorem setPayload_rxlen (p : List Byte) (b : Block) : (setPayload p b).rxlen = b.rxlen := rfl
@[simp] theorem setPayload_mem (p : List Byte) (b : Block) : (setPayload p b).mem = loadBytes b.mem .pbuf p := rfl

@[simp] theorem startXchg_relay (n : Nat) (b : Block) : (startXchg n b).relay = b.relay := rfl
@[simp] theorem startXchg_bank (n : Nat) (b : Block) : (startXchg n b).bank = b.bank := rfl
@[simp] theorem startXchg_bstat (n : Nat) (b : Block) : (startXchg n b).bstat = b.bstat := rfl
@[simp] theorem startXchg_index (n : Nat) (b : Block) : (startXchg n b).index = b.index := rfl
@[simp] theorem startXchg_chan (n : Nat) (b : Block) : (startXchg n b).chan = b.chan := rfl
@[simp] theorem startXchg_nreq (n : Nat) (b : Block) : (startXchg n b).nreq = b.nreq := rfl
@[simp] theorem startXchg_res (n : Nat) (b : Block) : (startXchg n b).res = b.res := rfl
@[simp] theorem startXchg_rlen (n : Nat) (b : Block) : (startXchg n b).rlen = b.rlen := rfl
@[simp] theorem startXchg_ad (n : Nat) (b : Block) : (startXchg n b).ad = b.ad := rfl
@[simp] theorem startXchg_phase (n : Nat) (b : Block) : (startXchg n b).phase = .tx := rfl
@[simp] theorem startXchg_txcnt (n : Nat) (b : Block) : (startXchg n b).txcnt = 0 := rfl
@[simp] theorem startXchg_rxcnt (n : Nat) (b : Block) : (startXchg n b).rxcnt = 0 := rfl
@[simp] theorem startXchg_status (n : Nat) (b : Block) :
    (startXchg n b).status = { b.status with busy := true } := rfl
@[simp] theorem startXchg_vflags (n : Nat) (b : Block) : (startXchg n b).vflags = VFlags.clear := rfl
@[simp] theorem startXchg_cmd (n : Nat) (b : Block) : (startXchg n b).cmd = b.cmd := rfl
@[simp] theorem startXchg_err (n : Nat) (b : Block) : (startXchg n b).err = b.err := rfl
@[simp] theorem startXchg_errinfo (n : Nat) (b : Block) : (startXchg n b).errinfo = b.errinfo := rfl
@[simp] theorem startXchg_plen (n : Nat) (b : Block) : (startXchg n b).plen = b.plen := rfl
@[simp] theorem startXchg_txlen (n : Nat) (b : Block) : (startXchg n b).txlen = b.txlen := rfl
@[simp] theorem startXchg_rxlen (n : Nat) (b : Block) : (startXchg n b).rxlen = BitVec.ofNat 9 n := rfl
@[simp] theorem startXchg_mem (n : Nat) (b : Block) : (startXchg n b).mem = b.mem := rfl

@[simp] theorem hostError_relay (b : Block) : (hostError b).relay = b.relay := rfl
@[simp] theorem hostError_bank (b : Block) : (hostError b).bank = b.bank := rfl
@[simp] theorem hostError_bstat (b : Block) : (hostError b).bstat = b.bstat := rfl
@[simp] theorem hostError_index (b : Block) : (hostError b).index = b.index := rfl
@[simp] theorem hostError_chan (b : Block) : (hostError b).chan = b.chan := rfl
@[simp] theorem hostError_nreq (b : Block) : (hostError b).nreq = b.nreq := rfl
@[simp] theorem hostError_res (b : Block) : (hostError b).res = b.res := rfl
@[simp] theorem hostError_rlen (b : Block) : (hostError b).rlen = b.rlen := rfl
@[simp] theorem hostError_ad (b : Block) : (hostError b).ad = b.ad := rfl
@[simp] theorem hostError_phase (b : Block) : (hostError b).phase = b.phase := rfl
@[simp] theorem hostError_txcnt (b : Block) : (hostError b).txcnt = b.txcnt := rfl
@[simp] theorem hostError_rxcnt (b : Block) : (hostError b).rxcnt = b.rxcnt := rfl
@[simp] theorem hostError_status (b : Block) : (hostError b).status = { b.status with hosterr := true } := rfl
@[simp] theorem hostError_vflags (b : Block) : (hostError b).vflags = b.vflags := rfl
@[simp] theorem hostError_cmd (b : Block) : (hostError b).cmd = b.cmd := rfl
@[simp] theorem hostError_err (b : Block) : (hostError b).err = b.err := rfl
@[simp] theorem hostError_errinfo (b : Block) : (hostError b).errinfo = b.errinfo := rfl
@[simp] theorem hostError_plen (b : Block) : (hostError b).plen = b.plen := rfl
@[simp] theorem hostError_txlen (b : Block) : (hostError b).txlen = b.txlen := rfl
@[simp] theorem hostError_rxlen (b : Block) : (hostError b).rxlen = b.rxlen := rfl
@[simp] theorem hostError_mem (b : Block) : (hostError b).mem = b.mem := rfl

@[simp] theorem txAdvance_relay (b : Block) : (txAdvance b).relay = b.relay := rfl
@[simp] theorem txAdvance_bank (b : Block) : (txAdvance b).bank = b.bank := rfl
@[simp] theorem txAdvance_bstat (b : Block) : (txAdvance b).bstat = b.bstat := rfl
@[simp] theorem txAdvance_index (b : Block) : (txAdvance b).index = b.index := rfl
@[simp] theorem txAdvance_chan (b : Block) : (txAdvance b).chan = b.chan := rfl
@[simp] theorem txAdvance_nreq (b : Block) : (txAdvance b).nreq = b.nreq := rfl
@[simp] theorem txAdvance_res (b : Block) : (txAdvance b).res = b.res := rfl
@[simp] theorem txAdvance_rlen (b : Block) : (txAdvance b).rlen = b.rlen := rfl
@[simp] theorem txAdvance_ad (b : Block) : (txAdvance b).ad = b.ad := rfl
@[simp] theorem txAdvance_phase (b : Block) :
    (txAdvance b).phase = if b.txcnt + 1 = b.txlen then .rx else b.phase := rfl
@[simp] theorem txAdvance_txcnt (b : Block) : (txAdvance b).txcnt = b.txcnt + 1 := rfl
@[simp] theorem txAdvance_rxcnt (b : Block) : (txAdvance b).rxcnt = b.rxcnt := rfl
@[simp] theorem txAdvance_status (b : Block) : (txAdvance b).status = b.status := rfl
@[simp] theorem txAdvance_vflags (b : Block) : (txAdvance b).vflags = b.vflags := rfl
@[simp] theorem txAdvance_cmd (b : Block) : (txAdvance b).cmd = b.cmd := rfl
@[simp] theorem txAdvance_err (b : Block) : (txAdvance b).err = b.err := rfl
@[simp] theorem txAdvance_errinfo (b : Block) : (txAdvance b).errinfo = b.errinfo := rfl
@[simp] theorem txAdvance_plen (b : Block) : (txAdvance b).plen = b.plen := rfl
@[simp] theorem txAdvance_txlen (b : Block) : (txAdvance b).txlen = b.txlen := rfl
@[simp] theorem txAdvance_rxlen (b : Block) : (txAdvance b).rxlen = b.rxlen := rfl
@[simp] theorem txAdvance_mem (b : Block) : (txAdvance b).mem = b.mem := rfl

end Sys2Proof.Machine
end

