-- ==== Sys2Proof/Laws/Memory.lean ====
section
/-! SUPPORT. The laws of the buffers: read after write, everything else unchanged, and the canonical form kept by every
operation over the memory. -/

namespace Sys2Proof.Machine

@[simp] theorem getBuf_putBuf_same (m : Memory) (b : BufId) (x : Buffer) : getBuf (putBuf m b x) b = x := by
  cases b <;> rfl

theorem getBuf_putBuf_other (m : Memory) {b c : BufId} (x : Buffer) (h : c ≠ b) :
    getBuf (putBuf m b x) c = getBuf m c := by
  cases b <;> cases c <;> first | rfl | exact absurd rfl h

theorem findCell_setCell_same (l : List Host.Cell) (i : Nat) (v : Byte) : findCell (setCell l i v) i = some v := by
  induction l with
  | nil => simp [setCell, findCell]
  | cons c rest ih =>
    obtain ⟨k, w⟩ := c
    simp only [setCell]
    split
    · simp [findCell]
    · split
      · simp [findCell]
      · rename_i h; simp [findCell, Ne.symm h, ih]

theorem findCell_setCell_other (l : List Host.Cell) {i j : Nat} (v : Byte) (h : j ≠ i) :
    findCell (setCell l i v) j = findCell l j := by
  induction l with
  | nil => simp [setCell, findCell, Ne.symm h]
  | cons c rest ih =>
    obtain ⟨k, w⟩ := c
    simp only [setCell]
    split
    · simp [findCell, Ne.symm h]
    · split
      · rename_i hk; subst hk; simp [findCell, Ne.symm h]
      · simp only [findCell, ih]

theorem findCell_cellsFrom (p : List Byte) (k i : Nat) :
    findCell (cellsFrom k p) i = if k ≤ i then p[i - k]? else none := by
  induction p generalizing k with
  | nil => simp [cellsFrom, findCell]
  | cons b bs ih =>
    simp only [cellsFrom, findCell, ih]
    by_cases h : k = i
    · subst h; simp
    · by_cases h1 : k + 1 ≤ i
      · have e : i - k = (i - (k + 1)) + 1 := by omega
        simp [h, h1, show k ≤ i by omega, e]
      · simp [h, h1, show ¬ k ≤ i by omega]

/-! ## One byte -/

theorem readByte_writeByte_same (m : Memory) (b : BufId) {i : Nat} (v : Byte) (h : i < bufCap b) :
    readByte (writeByte m b i v) b i = v := by
  simp [readByte, writeByte, h, findCell_setCell_same]

theorem readByte_writeByte_other (m : Memory) {b c : BufId} {i j : Nat} (v : Byte) (h : ¬ (c = b ∧ j = i)) :
    readByte (writeByte m b i v) c j = readByte m c j := by
  unfold writeByte
  split
  · by_cases hc : c = b
    · subst hc
      simp [readByte, findCell_setCell_other _ v (show j ≠ i from fun e => h ⟨rfl, e⟩)]
    · simp [readByte, getBuf_putBuf_other _ _ hc]
  · rfl

theorem readByte_loadBytes_same (m : Memory) (b : BufId) {p : List Byte} {i : Nat}
    (hp : p.length ≤ bufCap b) (hi : i < p.length) : readByte (loadBytes m b p) b i = p[i] := by
  simp [readByte, loadBytes, findCell_cellsFrom, List.take_of_length_le hp, List.getElem?_eq_getElem hi]

theorem readByte_loadBytes_other (m : Memory) {b c : BufId} (p : List Byte) (i : Nat) (h : c ≠ b) :
    readByte (loadBytes m b p) c i = readByte m c i := by
  simp [readByte, loadBytes, getBuf_putBuf_other _ _ h]

/-! ## Sequences of bytes -/

@[simp] theorem readBytes_length (m : Memory) (b : BufId) (lo n : Nat) : (readBytes m b lo n).length = n := by
  induction n generalizing lo with
  | zero => rfl
  | succ n ih => simp [readBytes, ih]

theorem readBytes_getElem? (m : Memory) (b : BufId) (lo n i : Nat) :
    (readBytes m b lo n)[i]? = if i < n then some (readByte m b (lo + i)) else none := by
  induction n generalizing lo i with
  | zero => simp [readBytes]
  | succ n ih =>
    cases i with
    | zero => simp [readBytes]
    | succ i =>
      rw [readBytes, List.getElem?_cons_succ, ih, show lo + 1 + i = lo + (i + 1) by omega]
      simp

theorem readBytes_congr {m m' : Memory} {b : BufId} {lo n : Nat}
    (h : ∀ i, i < n → readByte m' b (lo + i) = readByte m b (lo + i)) :
    readBytes m' b lo n = readBytes m b lo n := by
  apply List.ext_getElem?
  intro i
  simp only [readBytes_getElem?]
  split
  · rename_i hi; rw [h i hi]
  · rfl

theorem readBytes_succ (m : Memory) (b : BufId) (lo n : Nat) :
    readBytes m b lo (n + 1) = readBytes m b lo n ++ [readByte m b (lo + n)] := by
  induction n generalizing lo with
  | zero => rfl
  | succ n ih =>
    rw [readBytes, ih, readBytes]
    simp [Nat.add_comm 1 n, Nat.add_assoc]

theorem readBytes_getD (m : Memory) (b : BufId) {n i : Nat} (h : i < n) :
    (readBytes m b 0 n).getD i 0 = readByte m b i := by
  rw [List.getD_eq_getElem?_getD, readBytes_getElem?]
  simp [h]

theorem readBytes_take (m : Memory) (b : BufId) (lo : Nat) {n k : Nat} (h : k ≤ n) :
    (readBytes m b lo n).take k = readBytes m b lo k := by
  apply List.ext_getElem?
  intro i
  rw [List.getElem?_take]
  simp only [readBytes_getElem?]
  split <;> rename_i hi
  · simp [show i < n by omega]
  · rfl

theorem readBytes_drop (m : Memory) (b : BufId) (lo n k : Nat) :
    (readBytes m b lo n).drop k = readBytes m b (lo + k) (n - k) := by
  apply List.ext_getElem?
  intro i
  rw [List.getElem?_drop]
  simp only [readBytes_getElem?, Nat.add_assoc]
  by_cases hi : k + i < n
  · simp [hi, show i < n - k by omega]
  · simp [hi, show ¬ i < n - k by omega]

theorem readBytes_loadBytes_same (m : Memory) (b : BufId) {p : List Byte} (hp : p.length ≤ bufCap b) :
    readBytes (loadBytes m b p) b 0 p.length = p := by
  apply List.ext_getElem?
  intro i
  rw [readBytes_getElem?]
  split
  · rename_i hi
    rw [Nat.zero_add, readByte_loadBytes_same m b hp hi, List.getElem?_eq_getElem hi]
  · rename_i hi
    exact (List.getElem?_eq_none (by omega)).symm

theorem readBytes_loadBytes_other (m : Memory) {b c : BufId} (p : List Byte) (lo n : Nat) (h : c ≠ b) :
    readBytes (loadBytes m b p) c lo n = readBytes m c lo n :=
  readBytes_congr fun _ _ => readByte_loadBytes_other m p _ h

theorem readBytes_writeByte_other (m : Memory) {b c : BufId} {i lo n : Nat} (v : Byte)
    (h : c ≠ b ∨ i < lo ∨ lo + n ≤ i) :
    readBytes (writeByte m b i v) c lo n = readBytes m c lo n :=
  readBytes_congr fun j hj => readByte_writeByte_other m v (by rintro ⟨rfl, rfl⟩; rcases h with h | h | h
                                                               · exact h rfl
                                                               · omega
                                                               · omega)

/-- `RXBUF[2 .. n-1)` is the payload of `RXBUF[0 .. n)`. -/
theorem readBytes_payload (m : Memory) (b : BufId) (n : Nat) :
    readBytes m b 2 (n - 3) = payload (readBytes m b 0 n) := by
  unfold payload
  rw [readBytes_length, readBytes_take m b 0 (Nat.sub_le n 1), readBytes_drop]
  congr 1

/-! ## The canonical form -/

theorem cellsWf_weaken {cap lo lo' : Nat} (h : lo' ≤ lo) (l : List Host.Cell) (hl : cellsWf cap lo l = true) :
    cellsWf cap lo' l = true := by
  cases l with
  | nil => rfl
  | cons c rest =>
    simp only [cellsWf, Bool.and_eq_true, decide_eq_true_eq] at hl ⊢
    exact ⟨⟨by omega, hl.1.2⟩, hl.2⟩

theorem cellsWf_setCell {cap lo i : Nat} (v : Byte) (hi : i < cap) (hlo : lo ≤ i) (l : List Host.Cell)
    (hl : cellsWf cap lo l = true) : cellsWf cap lo (setCell l i v) = true := by
  induction l generalizing lo with
  | nil => simp [setCell, cellsWf, hi, hlo]
  | cons c rest ih =>
    obtain ⟨k, w⟩ := c
    simp only [cellsWf, Bool.and_eq_true, decide_eq_true_eq] at hl
    simp only [setCell]
    split
    · simp only [cellsWf, Bool.and_eq_true, decide_eq_true_eq]
      exact ⟨⟨hlo, hi⟩, ⟨⟨by omega, hl.1.2⟩, hl.2⟩⟩
    · split
      · rename_i h; subst h
        simp only [cellsWf, Bool.and_eq_true, decide_eq_true_eq]
        exact ⟨⟨hlo, hi⟩, hl.2⟩
      · simp only [cellsWf, Bool.and_eq_true, decide_eq_true_eq]
        exact ⟨hl.1, ih (by omega) hl.2⟩

theorem cellsWf_cellsFrom {cap k : Nat} (p : List Byte) (h : k + p.length ≤ cap) :
    cellsWf cap k (cellsFrom k p) = true := by
  induction p generalizing k with
  | nil => rfl
  | cons b bs ih =>
    simp only [List.length_cons] at h
    simp only [cellsFrom, cellsWf, Bool.and_eq_true, decide_eq_true_eq]
    exact ⟨⟨Nat.le_refl k, by omega⟩, ih (by omega)⟩

theorem Memory.wf_iff (m : Memory) : m.wf = true ↔ ∀ b, cellsWf (bufCap b) 0 (getBuf m b).cells = true := by
  simp only [Memory.wf, Bool.and_eq_true]
  constructor
  · rintro ⟨⟨⟨h1, h2⟩, h3⟩, h4⟩ b
    cases b <;> assumption
  · intro h
    exact ⟨⟨⟨h .pbuf, h .txbuf⟩, h .rxbuf⟩, h .resbuf⟩

theorem wf_putBuf {m : Memory} {b : BufId} {x : Buffer} (hm : m.wf = true) (hx : cellsWf (bufCap b) 0 x.cells = true) :
    (putBuf m b x).wf = true := by
  rw [Memory.wf_iff] at hm ⊢
  intro c
  by_cases h : c = b
  · subst h; simpa using hx
  · rw [getBuf_putBuf_other _ _ h]; exact hm c

theorem wf_writeByte {m : Memory} (b : BufId) (i : Nat) (v : Byte) (hm : m.wf = true) :
    (writeByte m b i v).wf = true := by
  unfold writeByte
  split
  · rename_i hi
    exact wf_putBuf hm (cellsWf_setCell v hi (Nat.zero_le _) _ ((Memory.wf_iff m).1 hm b))
  · exact hm

theorem wf_loadBytes {m : Memory} (b : BufId) (p : List Byte) (hm : m.wf = true) : (loadBytes m b p).wf = true :=
  wf_putBuf hm (cellsWf_cellsFrom _ (by simp only [List.length_take]; omega))

theorem wf_forgetAll (m : Memory) : (forgetAll m).wf = true := by
  simp [forgetAll, Memory.wf, Buffer.unspecified, cellsWf]

end Sys2Proof.Machine
end

