-- ==== Sys2Proof/Laws/Ops.lean ====
section
/-! SUPPORT. What each shared operation can do, said once: the lemmas the proofs cite instead of unfolding it. -/

namespace Sys2Proof.Machine

/-! ## Packets -/

theorem framePre_length (p : List Byte) : (framePre p).length = p.length + 2 := by simp [framePre]

@[simp] theorem frame_length (p : List Byte) : (frame p).length = p.length + 3 := by simp [frame, framePre_length]

/-- The flags of a byte sequence are `VALID` exactly when it is a valid packet (R135: "After it `VFLAGS.VALID` =
`is_valid(RXBUF[0..RXLEN))`"). -/
theorem checkFlags_valid (s : List Byte) : (checkFlags s).valid = isValid s := by
  unfold checkFlags isValid
  by_cases h : s.length < 3
  · simp [h, VFlags.clear, show ¬ 3 ≤ s.length by omega]
  · simp [h, show 3 ≤ s.length by omega]

theorem checkFlags_valid_all (s : List Byte) (h : (checkFlags s).valid = true) :
    (checkFlags s).size = true ∧ (checkFlags s).hs = true ∧ (checkFlags s).len = true ∧ (checkFlags s).chk = true := by
  unfold checkFlags at h ⊢
  split at h
  · cases h
  · rename_i hn
    simp only [Bool.and_eq_true] at h
    simp only [hn, if_false]
    exact ⟨trivial, h.1.1, h.1.2, h.2⟩

/-- A valid packet has 3 to 258 bytes (R98). -/
theorem isValid_length {s : List Byte} (h : isValid s = true) : 3 ≤ s.length ∧ s.length ≤ 258 := by
  simp only [isValid, Bool.and_eq_true, decide_eq_true_eq] at h
  have := (s.getD 1 0).isLt
  omega

/-! ## Registers of counted width -/

theorem toNat_len {n : Nat} (h : n < 512) : (BitVec.ofNat 9 n).toNat = n := by
  simp [Nat.mod_eq_of_lt h]

theorem len_succ {x : Len} (h : x.toNat < 511) : (x + 1).toNat = x.toNat + 1 := by
  rw [BitVec.toNat_add]
  simp
  omega

/-! ## Guards -/

theorem guardPlen_of_le {go : Block → Block} {b : Block} (h : b.plen.toNat ≤ 255) : guardPlen go b = go b := by
  simp [guardPlen, Nat.not_lt.2 h]

theorem guardPlen_of_gt {go : Block → Block} {b : Block} (h : 255 < b.plen.toNat) :
    guardPlen go b = raise .arg 0 b := by
  simp [guardPlen, h]

theorem relayOp_zero {sub : Byte} {go : Block → Block} {b : Block} (h : b.relay = 0) :
    relayOp sub go b = raise .arg 0 b := by
  simp [relayOp, h]

theorem relayOp_pos {sub : Byte} {go : Block → Block} {b : Block} (h : b.relay ≠ 0) :
    relayOp sub go b = go (setPayload (relayPayload sub b.relay) b) := by
  unfold relayOp
  rw [if_neg h]

theorem offsetOp_fits {base : Nat} {x : Byte} {go : Byte → Block → Block} {b : Block} (h : base + x.toNat ≤ 255) :
    offsetOp base x go b = go (BitVec.ofNat 8 (base + x.toNat)) b := by
  simp [offsetOp, offsetByte, h]

theorem offsetOp_over {base : Nat} {x : Byte} {go : Byte → Block → Block} {b : Block} (h : 255 < base + x.toNat) :
    offsetOp base x go b = raise .arg 0 b := by
  simp [offsetOp, offsetByte, Nat.not_le.2 h]

/-- `ARG` never sets `STALE`. -/
theorem setsStale_arg (b : Block) : setsStale .arg b = false := by simp [setsStale]

/-- A refusal in the acceptance step, as a state (R234, R236). -/
theorem refused_eq (c : Byte) (s : State) :
    withBlk s (raise .arg 0 (accept c s.blk)) = refusedState c s := by
  simp [raise, refusedState, withBlk, accept, setsStale_arg]

/-! ## Build and start -/

/-- `do_build` puts the frame in `TXBUF` (R132). -/
theorem doBuild_request {b : Block} (h : b.plen.toNat ≤ 255) :
    readBytes (doBuild b).mem .txbuf 0 (b.plen.toNat + 3) = frame (payloadBytes b) := by
  have hl : (frame (payloadBytes b)).length = b.plen.toNat + 3 := by simp [payloadBytes]
  rw [doBuild_mem, ← hl]
  exact readBytes_loadBytes_same _ _ (by rw [hl]; simp only [bufCap]; omega)

/-- A device command's payload stands in `PBUF[0..PLEN)` (R84). -/
theorem setPayload_payload {p : List Byte} (b : Block) (h : p.length ≤ 255) :
    payloadBytes (setPayload p b) = p := by
  unfold payloadBytes
  rw [setPayload_plen, toNat_len (by omega), setPayload_mem]
  exact readBytes_loadBytes_same _ _ h

/-- The start of an exchange from a payload in `PBUF`, in the terms of R132 and R151. -/
theorem startXchg_started {c : Byte} {s : State} {b : Block} {p : List Byte} {total : Nat}
    (hb : b = accept c s.blk ∨ b = setPayload p (accept c s.blk)) (hp : payloadBytes b = p)
    (hl : b.plen.toNat ≤ 255) (ht : total < 512) :
    Started c p total s (withBlk s (startXchg total (doBuild b))) := by
  have hpl : b.plen.toNat = p.length := by rw [← hp]; simp [payloadBytes]
  have hr : requestBytes (startXchg total (doBuild b)) = frame p := by
    unfold requestBytes
    rw [startXchg_txlen, startXchg_mem, doBuild_txlen, toNat_len (by omega), doBuild_request hl, hp]
  have hpb : payloadBytes (startXchg total (doBuild b)) = p := by
    rw [← hp]
    exact readBytes_loadBytes_other (b := .txbuf) (c := .pbuf) _ _ _ _ (by decide)
  have hrx : ∀ i, readByte (startXchg total (doBuild b)).mem .rxbuf i = readByte s.blk.mem .rxbuf i := by
    intro i
    rcases hb with rfl | rfl
    · exact readByte_loadBytes_other (b := .txbuf) (c := .rxbuf) _ _ _ (by decide)
    · exact (readByte_loadBytes_other (b := .txbuf) (c := .rxbuf) _ _ _ (by decide)).trans
        (readByte_loadBytes_other (b := .pbuf) (c := .rxbuf) _ _ _ (by decide))
  have hrs : ∀ i, readByte (startXchg total (doBuild b)).mem .resbuf i = readByte s.blk.mem .resbuf i := by
    intro i
    rcases hb with rfl | rfl
    · exact readByte_loadBytes_other (b := .txbuf) (c := .resbuf) _ _ _ (by decide)
    · exact (readByte_loadBytes_other (b := .txbuf) (c := .resbuf) _ _ _ (by decide)).trans
        (readByte_loadBytes_other (b := .pbuf) (c := .resbuf) _ _ _ (by decide))
  refine ⟨?_, hpb, hpl, hr, ?_, toNat_len ht, ⟨rfl, rfl⟩, rfl, ?_, ?_, rfl, ?_, ?_, hrx, hrs, rfl, rfl, rfl⟩
  · rcases hb with rfl | rfl <;> rfl
  · show (BitVec.ofNat 9 (b.plen.toNat + 3)).toNat = _
    rw [toNat_len (by omega), hpl]
  · rcases hb with rfl | rfl <;> rfl
  · rcases hb with rfl | rfl <;> exact ⟨rfl, rfl⟩
  · rcases hb with rfl | rfl <;> rfl
  · rcases hb with rfl | rfl <;> exact ⟨rfl, rfl, rfl⟩

/-! ## Check and finish -/

theorem doCheck_valid (b : Block) : (doCheck b).vflags.valid = isValid (responseBytes b) := by
  rw [doCheck_vflags, checkFlags_valid]

/-- The finish action: `INVALID` on a response that is not valid, the op's decode actions on one that is (R154). -/
theorem finish_invalid {b : Block} (h : isValid (responseBytes b) = false) :
    finish b = raise .invalid 0 (doCheck b) := by
  unfold finish
  simp [checkFlags_valid, h]

theorem finish_valid {b : Block} {i : Instr} (h : isValid (responseBytes b) = true) (hc : decode b.cmd = .op i) :
    finish b = finishOp i (doCheck b) := by
  unfold finish
  simp [checkFlags_valid, h, hc]

/-- `do_payload` puts the payload of the response in `RESBUF` (R138). -/
theorem doPayload_result {b : Block} (h : b.rxlen.toNat ≤ 258) :
    readBytes (doPayload b).mem .resbuf 0 (doPayload b).rlen.toNat = payload (responseBytes b) := by
  have hl : (readBytes b.mem .rxbuf 2 (b.rxlen.toNat - 3)).length = b.rxlen.toNat - 3 := readBytes_length ..
  unfold responseBytes
  rw [doPayload_rlen, doPayload_mem, ← readBytes_payload]
  have h8 : (BitVec.ofNat 8 (b.rxlen.toNat - 3)).toNat
      = (readBytes b.mem .rxbuf 2 (b.rxlen.toNat - 3)).length := by
    rw [hl, BitVec.toNat_ofNat, Nat.mod_eq_of_lt (by omega)]
  rw [h8]
  exact readBytes_loadBytes_same _ _ (by rw [hl]; simp only [bufCap]; omega)

/-! ## HOST's writes -/

theorem unlessBusy_busy {b c : Block} (h : b.status.busy = true) : unlessBusy b c = hostError b := by
  simp [unlessBusy, h]

theorem unlessBusy_idle {b c : Block} (h : b.status.busy = false) : unlessBusy b c = c := by
  simp [unlessBusy, h]

end Sys2Proof.Machine
end

