-- ==== Sys2Proof/Laws/Step.lean ====
section
/-! SUPPORT. What a step can do, said once: an op changes the FE alone; a step is one move, case by case. -/

namespace Sys2Proof.Machine

/-- Every op answers a next state and changes only the FE. -/
theorem exec_next (i : Instr) (s : State) : ∃ b, exec i s = .next (withBlk s b) := by
  cases i <;> exact ⟨_, rfl⟩

theorem step_ended {s t : State} (h : nextAction s = .ended t) : step s = .next t := by simp [step, h]

theorem step_start {s t : State} {i : Instr} (h : nextAction s = .start i t) : step s = exec i t := by simp [step, h]

theorem settle_low {s : State} (h : s.rst = false) : settle s = s := by simp [settle, h]

theorem settle_high {s : State} (h : s.rst = true) : settle s = withBlk s (resetBlock s.blk) := by simp [settle, h]

/-- A write by HOST is the acceptance of an op only if it writes `CMD` of a block that is not busy (R35). -/
theorem startsOp_iff {n : Nat} {b : Block} :
    startsOp n b = true ↔ regOfNumber n = some .cmd ∧ b.status.busy = false := by
  simp [startsOp]

/-- The moves with `rst` low, one by one. -/
theorem nextAction_fe {s : State} {tx : TxEvent} {rx : RxOffer} {rest : List Turn}
    (hr : s.rst = false) (ht : s.turns = .fe tx rx :: rest) :
    nextAction s = .ended (feStep tx rx { s with turns := rest }) := by
  simp [nextAction, ht, move, hr]

theorem nextAction_host {s : State} {rest : List Turn} (hr : s.rst = false) (ht : s.turns = .host :: rest) :
    nextAction s = hostMove { s with turns := rest } := by
  simp [nextAction, ht, move, hr]

/-- What one step was: the move it was, and the state it left. -/
inductive StepCase (s t : State) : Prop where
  /-- No move was to come. -/
  | quiet (ht : s.turns = []) (h : t = settle s)
  /-- HOST's access met `rst` = 1. -/
  | hostLost (rest : List Turn) (ht : s.turns = .host :: rest) (hr : s.rst = true)
      (h : t = settle { s with turns := rest, host := hostLost s.host })
  /-- HOST had no access to make. -/
  | hostNone (rest : List Turn) (ht : s.turns = .host :: rest) (hr : s.rst = false) (hh : s.host = [])
      (h : t = { s with turns := rest })
  /-- HOST read a register number. -/
  | hostRead (rest : List Turn) (n : Nat) (more : List HostOp) (ht : s.turns = .host :: rest) (hr : s.rst = false)
      (hh : s.host = .rd n :: more) (h : t = hostRead n { s with turns := rest, host := more })
  /-- HOST's `WAIT` saw `DONE` = 1. -/
  | hostWaited (rest : List Turn) (more : List HostOp) (ht : s.turns = .host :: rest) (hr : s.rst = false)
      (hh : s.host = .wait :: more) (hd : s.blk.status.done = true) (h : t = { s with turns := rest, host := more })
  /-- HOST's `WAIT` saw `DONE` = 0. -/
  | hostWaits (rest : List Turn) (more : List HostOp) (ht : s.turns = .host :: rest) (hr : s.rst = false)
      (hh : s.host = .wait :: more) (hd : s.blk.status.done = false) (h : t = { s with turns := rest })
  /-- HOST wrote a register number and started no op. -/
  | hostWrote (rest : List Turn) (n v : Nat) (more : List HostOp) (ht : s.turns = .host :: rest) (hr : s.rst = false)
      (hh : s.host = .wr n v :: more) (hs : startsOp n s.blk = false)
      (h : t = withBlk { s with turns := rest, host := more } (writeNumber n v s.blk))
  /-- HOST wrote an illegal op code. -/
  | illegal (rest : List Turn) (n v : Nat) (more : List HostOp) (c : Byte) (ht : s.turns = .host :: rest)
      (hr : s.rst = false) (hh : s.host = .wr n v :: more) (hs : startsOp n s.blk = true)
      (hd : decode (BitVec.ofNat 8 v) = .illegalOpcode c)
      (h : t = withBlk { s with turns := rest, host := more } (illegalOp c s.blk))
  /-- HOST started an op. -/
  | op (rest : List Turn) (n v : Nat) (more : List HostOp) (i : Instr) (ht : s.turns = .host :: rest)
      (hr : s.rst = false) (hh : s.host = .wr n v :: more) (hs : startsOp n s.blk = true)
      (hd : decode (BitVec.ofNat 8 v) = .op i) (h : exec i { s with turns := rest, host := more } = .next t)
  /-- The FE's turn met `rst` = 1. -/
  | feReset (rest : List Turn) (tx : TxEvent) (rx : RxOffer) (ht : s.turns = .fe tx rx :: rest) (hr : s.rst = true)
      (h : t = settle { s with turns := rest })
  /-- The FE took a step. -/
  | fe (rest : List Turn) (tx : TxEvent) (rx : RxOffer) (ht : s.turns = .fe tx rx :: rest) (hr : s.rst = false)
      (h : t = feStep tx rx { s with turns := rest })
  /-- CANCEL drove its input. -/
  | cancel (rest : List Turn) (l : Bool) (ht : s.turns = .cancel l :: rest)
      (h : t = settle { s with turns := rest, cancel := l })
  /-- `rst` was driven. -/
  | rst (rest : List Turn) (l : Bool) (ht : s.turns = .rst l :: rest) (h : t = settle { s with turns := rest, rst := l })
  /-- STREAM came to hold a byte. -/
  | arrive (rest : List Turn) (b : Byte) (ht : s.turns = .arrive b :: rest)
      (h : t = settle { s with turns := rest, stream := { s.stream with held := s.stream.held ++ [b] } })
  /-- STREAM lost its bytes. -/
  | drain (rest : List Turn) (ht : s.turns = .drain :: rest)
      (h : t = settle { s with turns := rest, stream := { s.stream with held := [] } })

/-- A HOST write, inverted. -/
theorem step_write {s t : State} {n v : Nat} {rest : List Turn} {more : List HostOp} (hr : s.rst = false)
    (ht : s.turns = .host :: rest) (hh : s.host = .wr n v :: more) (h : step s = .next t) : StepCase s t := by
  have hn : nextAction s = writeMove n v { s with turns := rest, host := more } := by
    rw [nextAction_host hr ht]; simp [hostMove, hh]
  cases hs : startsOp n s.blk with
  | false =>
    rw [step_ended (hn.trans (if_neg (by simp [hs])))] at h
    cases h
    exact .hostWrote rest n v more ht hr hh hs rfl
  | true =>
    cases hd : decode (BitVec.ofNat 8 v) with
    | illegalOpcode c =>
      rw [step_ended (hn.trans ((if_pos hs).trans (by rw [hd])))] at h
      cases h
      exact .illegal rest n v more c ht hr hh hs hd rfl
    | op i =>
      rw [step_start (hn.trans ((if_pos hs).trans (by rw [hd])))] at h
      exact .op rest n v more i ht hr hh hs hd h

/-- A step, inverted: with `t` the state after it, one of the cases holds. -/
theorem step_cases {s t : State} (h : step s = .next t) : StepCase s t := by
  cases ht : s.turns with
  | nil => rw [step_ended (s := s) (by simp [nextAction, ht]; rfl)] at h; cases h; exact .quiet ht rfl
  | cons m rest =>
    have hm : nextAction s = move m { s with turns := rest } := by simp [nextAction, ht]
    cases m with
    | fe tx rx =>
      cases hr : s.rst with
      | true => rw [step_ended (hm.trans (by simp [move, hr]; rfl))] at h; cases h; exact .feReset rest tx rx ht hr (by rw [hr])
      | false => rw [step_ended (nextAction_fe hr ht)] at h; cases h; exact .fe rest tx rx ht hr rfl
    | cancel l => rw [step_ended (hm.trans rfl)] at h; cases h; exact .cancel rest l ht rfl
    | rst l => rw [step_ended (hm.trans rfl)] at h; cases h; exact .rst rest l ht rfl
    | arrive b => rw [step_ended (hm.trans rfl)] at h; cases h; exact .arrive rest b ht rfl
    | drain => rw [step_ended (hm.trans rfl)] at h; cases h; exact .drain rest ht rfl
    | host =>
      cases hr : s.rst with
      | true =>
        rw [step_ended (hm.trans (by simp [move, hr]; rfl))] at h; cases h; exact .hostLost rest ht hr (by rw [hr])
      | false =>
        have hn := nextAction_host hr ht
        cases hh : s.host with
        | nil =>
          rw [step_ended (hn.trans (by simp [hostMove, hh]; rfl))] at h
          cases h; exact .hostNone rest ht hr hh (by rw [hh])
        | cons a more =>
          cases a with
          | wr n v => exact step_write hr ht hh h
          | rd n =>
            rw [step_ended (hn.trans (by simp [hostMove, hh]; rfl))] at h
            cases h; exact .hostRead rest n more ht hr hh rfl
          | wait =>
            cases hd : s.blk.status.done with
            | true =>
              rw [step_ended (hn.trans (by simp [hostMove, hh, hd]; rfl))] at h
              cases h; exact .hostWaited rest more ht hr hh hd rfl
            | false =>
              rw [step_ended (hn.trans (by simp [hostMove, hh, hd]; rfl))] at h
              cases h; exact .hostWaits rest more ht hr hh hd (by rw [hh])

/-! ## The FE's steps -/

theorem feStep_idle {tx : TxEvent} {rx : RxOffer} {s : State} (h : s.blk.phase = .idle) : feStep tx rx s = s := by
  simp [feStep, h]

theorem feStep_tx {tx : TxEvent} {rx : RxOffer} {s : State} (h : s.blk.phase = .tx) :
    feStep tx rx s = txStep tx s := by
  simp [feStep, h]

theorem feStep_rx {tx : TxEvent} {rx : RxOffer} {s : State} (h : s.blk.phase = .rx) :
    feStep tx rx s = rxStep rx s := by
  simp [feStep, h]

/-- A `TX` step, inverted (R152). -/
theorem txStep_cases (tx : TxEvent) (s : State) :
    (s.cancel = true ∧ txStep tx s = withBlk s (raise .timeout 0 s.blk))
    ∨ (s.cancel = false ∧ ∃ e, tx = .err e ∧ txStep tx s = withBlk s (raise .io (errBits s.cfg e) s.blk))
    ∨ (s.cancel = false ∧ tx = .ready
        ∧ txStep tx s = { s with
            stream := streamWrite s.stream (readByte s.blk.mem .txbuf s.blk.txcnt.toNat), blk := txAdvance s.blk })
    ∨ (s.cancel = false ∧ tx = .busy ∧ txStep tx s = s) := by
  unfold txStep
  cases hc : s.cancel <;> cases tx <;> simp

/-- An `RX` step, inverted (R153). -/
theorem rxStep_cases (rx : RxOffer) (s : State) :
    (s.cancel = true ∧ rxStep rx s = withBlk s (raise .timeout 0 s.blk))
    ∨ (s.cancel = false ∧ ∃ e, rx = .err e ∧ rxStep rx s = withBlk s (raise .io (errBits s.cfg e) s.blk))
    ∨ (s.cancel = false ∧ rx = .deliver ∧ ∃ v h, s.stream.held = v :: h
        ∧ rxStep rx s = { s with stream := { s.stream with held := h }, blk := rxStore v s.blk })
    ∨ (s.cancel = false ∧ (rx = .empty ∨ (rx = .deliver ∧ s.stream.held = [])) ∧ rxStep rx s = s) := by
  unfold rxStep
  cases hc : s.cancel
  · cases rx with
    | deliver =>
      cases hh : s.stream.held <;> simp [rxEvent, hh, streamTake]
    | empty => simp [rxEvent]
    | err e => simp [rxEvent]
  · simp

/-- Receiving a byte that is not the last (R153). -/
theorem rxStore_more {v : Byte} {b : Block} (h : b.rxcnt + 1 ≠ b.rxlen) :
    rxStore v b = { b with mem := writeByte b.mem .rxbuf b.rxcnt.toNat v, rxcnt := b.rxcnt + 1 } := by
  unfold rxStore
  exact if_neg h

/-- Receiving the last byte: store, then finish in the same step (R153, R154). -/
theorem rxStore_last {v : Byte} {b : Block} (h : b.rxcnt + 1 = b.rxlen) :
    rxStore v b = finish { b with mem := writeByte b.mem .rxbuf b.rxcnt.toNat v, rxcnt := b.rxcnt + 1 } := by
  unfold rxStore
  exact if_pos h

end Sys2Proof.Machine
end

