-- ==== Sys2Proof/Laws/Exec.lean ====
section
/-! SUPPORT. What the acceptance of an op, and the finish action of an exchange, can leave: said once, case by case. -/

namespace Sys2Proof.Machine

/-- What accepting op `i` makes of a block (R35): refused, reset, an exchange started, or a pure op completed. -/
inductive ExecCase (i : Instr) (b t : Block) : Prop where
  /-- Refused with `ARG`; only `CHECK` clears `VFLAGS` with it (R136, R234). -/
  | refused (v : VFlags) (hv : v = b.vflags ∨ (i = .check ∧ v = VFlags.clear))
      (h : t = raise .arg 0 { accept (encode i) b with vflags := v })
  /-- `SRESET` (R222). -/
  | sreset (hi : i = .sreset) (h : t = resetBlock b)
  /-- An exchange started with the payload that stands in `PBUF` (R159, R160) or with a device command's (R180 to R204). -/
  | started (c : Block) (n : Nat) (hi : isExchange i = true) (hn : 4 ≤ n ∨ i = .rawrd) (hn3 : 3 ≤ n) (hn258 : n ≤ 258)
      (hc : c = accept (encode i) b ∨ ∃ p, p.length ≤ 4 ∧ c = setPayload p (accept (encode i) b))
      (hp : c.plen.toNat ≤ 255) (h : t = startXchg n (doBuild c))
  /-- `NOP` (R220). -/
  | nop (hi : i = .nop) (h : t = completeOk (accept (encode i) b))
  /-- `CSUM` (R131). -/
  | csum (hi : i = .csum) (h : t = completeOk { accept (encode i) b with res := csum8 (payloadBytes b), rlen := 0 })
  /-- `BUILD` (R134). -/
  | build (hi : i = .build) (hp : b.plen.toNat ≤ 255) (h : t = completeOk { doBuild (accept (encode i) b) with rlen := 0 })
  /-- `CHECK` (R136). -/
  | check (hi : i = .check) (hl : b.rxlen.toNat ≤ 258) (h : t = completeOk { doCheck (accept (encode i) b) with rlen := 0 })
  /-- `PAYLD` (R140). -/
  | payld (hi : i = .payld) (hv : b.vflags.valid = true) (h : t = completeOk (doPayload (accept (encode i) b)))
  /-- `CLRSTALE` (R221). -/
  | clrstale (hi : i = .clrstale) (h : t = completeOk (clearStale (accept (encode i) b)))

/-- A device command's start, as a case. -/
theorem ExecCase.command {i : Instr} {b : Block} {p : List Byte} {n : Nat} (hi : isExchange i = true)
    (hp : p.length ≤ 4) (hn : 4 ≤ n) (hn258 : n ≤ 258) :
    ExecCase i b (startXchg n (doBuild (setPayload p (accept (encode i) b)))) :=
  .started _ n hi (.inl hn) (by omega) hn258 (.inr ⟨p, hp, rfl⟩)
    (by rw [setPayload_plen, toNat_len (by omega)]; omega) rfl

/-- The refusal, as a case. -/
theorem ExecCase.arg {i : Instr} {b : Block} : ExecCase i b (raise .arg 0 (accept (encode i) b)) :=
  .refused b.vflags (.inl rfl) rfl

theorem guardPlen_case {i : Instr} {b : Block} {go : Block → Block}
    (hg : b.plen.toNat ≤ 255 → ExecCase i b (go (accept (encode i) b))) : ExecCase i b (guardPlen go (accept (encode i) b)) := by
  by_cases h : 255 < b.plen.toNat
  · rw [guardPlen_of_gt (by exact h)]; exact .arg
  · rw [guardPlen_of_le (by rw [accept_plen]; omega)]; exact hg (by omega)

theorem relayOp_case {i : Instr} {b : Block} {sub : Byte} {go : Block → Block}
    (hg : ExecCase i b (go (setPayload (relayPayload sub b.relay) (accept (encode i) b)))) :
    ExecCase i b (relayOp sub go (accept (encode i) b)) := by
  by_cases h : b.relay = 0
  · rw [relayOp_zero (by exact h)]; exact .arg
  · rw [relayOp_pos (by exact h)]; exact hg

theorem offsetOp_case {i : Instr} {b : Block} {base : Nat} {x : Byte} {go : Byte → Block → Block}
    (hg : ∀ sub, ExecCase i b (go sub (accept (encode i) b))) : ExecCase i b (offsetOp base x go (accept (encode i) b)) := by
  by_cases h : base + x.toNat ≤ 255
  · rw [offsetOp_fits h]; exact hg _
  · rw [offsetOp_over (by omega)]; exact .arg

/-- The acceptance of any op, inverted. -/
theorem exec_cases {i : Instr} {s t : State} (h : exec i s = .next t) :
    t = withBlk s t.blk ∧ ExecCase i s.blk t.blk := by
  cases i <;> cases h <;> refine ⟨rfl, ?_⟩ <;> dsimp only [withBlk_blk]
  case nop => exact .nop rfl rfl
  case clrstale => exact .clrstale rfl rfl
  case sreset => exact .sreset rfl rfl
  case csum => exact guardPlen_case fun _ => .csum rfl rfl
  case build => exact guardPlen_case fun hp => .build rfl hp rfl
  case rawcmd =>
    exact guardPlen_case fun hp => .started _ 4 rfl (.inl (by omega)) (by omega) (by omega) (.inl rfl) hp rfl
  case rawrd =>
    have := s.blk.nreq.isLt
    exact guardPlen_case fun hp =>
      .started _ (s.blk.nreq.toNat + 3) rfl (.inr rfl) (by omega) (by omega) (.inl rfl) hp rfl
  case check =>
    show ExecCase _ _ (checkOp _)
    unfold checkOp
    split
    · exact .refused VFlags.clear (.inr ⟨rfl, rfl⟩) rfl
    · exact .check rfl (by rename_i h; rw [accept_rxlen] at h; omega) rfl
  case payld =>
    show ExecCase _ _ (payldOp _)
    unfold payldOp
    split
    · exact .payld rfl (by assumption) rfl
    · exact .arg
  case rlyon => exact relayOp_case (.command rfl (Nat.le_refl 4) (by decide) (by decide))
  case rlyoff => exact relayOp_case (.command rfl (Nat.le_refl 4) (by decide) (by decide))
  case rlyget => exact relayOp_case (.command rfl (Nat.le_refl 4) (by decide) (by decide))
  case bnkset => exact .command rfl (Nat.le_refl 4) (by decide) (by decide)
  case bnkget => exact .command rfl (Nat.le_of_ble_eq_true rfl) (by decide) (by decide)
  case ad8all => exact .command rfl (Nat.le_of_ble_eq_true rfl) (by decide) (by decide)
  case ad10all => exact .command rfl (Nat.le_of_ble_eq_true rfl) (by decide) (by decide)
  case brlyon =>
    refine offsetOp_case fun sub => .command rfl ?_ (by decide) (by decide)
    cases s.cfg.brlyonForm <;> exact Nat.le_of_ble_eq_true rfl
  case brlyoff => exact offsetOp_case fun sub => .command rfl (Nat.le_of_ble_eq_true rfl) (by decide) (by decide)
  case ad8one => exact offsetOp_case fun sub => .command rfl (Nat.le_of_ble_eq_true rfl) (by decide) (by decide)
  case ad10one =>
    refine offsetOp_case fun sub => .command rfl (Nat.le_of_ble_eq_true rfl) ?_ ?_ <;>
      cases s.cfg.ad10oneNreq <;> decide

/-! ## The finish action -/

/-- What the finish action can leave of a block whose response is complete (R154). -/
inductive FinishCase (b t : Block) : Prop where
  /-- The response is not valid. -/
  | invalid (hv : isValid (responseBytes b) = false) (h : t = raise .invalid 0 (doCheck b))
  /-- A command-only op: the acknowledgment is not examined (R157). -/
  | ack (hv : isValid (responseBytes b) = true) (h : t = finishAck (doCheck b))
  /-- A read: the payload is copied and its decode actions write `RES` or `AD` (R158). -/
  | read (hv : isValid (responseBytes b) = true) (r : Byte) (a : Vector Sample 8)
      (h : t = completeOk { doPayload (doCheck b) with res := r, ad := a })
  /-- `AD10ONE` with too few bytes (R203, R242). -/
  | short (hv : isValid (responseBytes b) = true) (h : t = raise .short 0 (doCheck b))
  /-- Not an exchange op in flight, which no reachable state has (log entry 8). -/
  | other (hv : isValid (responseBytes b) = true) (hc : isExchangeCode b.cmd = false) (h : t = completeOk (doCheck b))

theorem finish_cases (b : Block) : FinishCase b (finish b) := by
  cases hv : isValid (responseBytes b) with
  | false => exact .invalid hv (finish_invalid hv)
  | true =>
    cases hd : decode b.cmd with
    | illegalOpcode c =>
      refine .other hv (by simp [isExchangeCode, hd]) ?_
      unfold finish
      simp [checkFlags_valid, hv, hd]
    | op i =>
      rw [finish_valid hv hd]
      have hx : isExchangeCode b.cmd = isExchange i := by simp [isExchangeCode, hd]
      cases i
      case rawcmd | rlyon | rlyoff | bnkset | brlyon | brlyoff => exact .ack hv rfl
      case nop | csum | build | check | payld | clrstale | sreset => exact .other hv hx rfl
      case rawrd | rlyget | bnkget | ad8one | ad8all | ad10all => exact .read hv _ _ rfl
      case ad10one =>
        by_cases h : (doPayload (doCheck b)).rlen.toNat < 2
        · exact .short hv (if_pos h)
        · exact .read hv _ _ (if_neg h)

end Sys2Proof.Machine
end

