-- ==== Sys2Proof/Laws/Block.lean ====
section
/-! SUPPORT. What one step can do to the FE and to the bytes sent: the cases the invariants are proved from. -/

namespace Sys2Proof.Machine

theorem settle_blk (s : State) : (settle s).blk = s.blk ∨ (settle s).blk = resetBlock s.blk := by
  unfold settle
  split
  · exact .inr rfl
  · exact .inl rfl

@[simp] theorem settle_stream (s : State) : (settle s).stream = s.stream := by unfold settle; split <;> rfl
@[simp] theorem settle_cfg (s : State) : (settle s).cfg = s.cfg := by unfold settle; split <;> rfl

/-- What a HOST write that starts no op makes of a block (R32 to R34, R42). -/
inductive WriteCase (b t : Block) : Prop where
  /-- Refused. -/
  | refused (h : t = hostError b)
  /-- An operand register or `PLEN`. -/
  | operand (re : RelayIdx) (ba bs ix ch nq : Byte) (pl : Len)
      (h : t = { b with relay := re, bank := ba, bstat := bs, index := ix, chan := ch, nreq := nq, plen := pl })
  /-- A byte of `PBUF`. -/
  | pbuf (i : Nat) (v : Byte) (h : t = { b with mem := writeByte b.mem .pbuf i v })
  /-- `RXLEN`, the block not being busy. -/
  | rxlen (l : Len) (hb : b.status.busy = false) (h : t = { b with rxlen := l, vflags := VFlags.clear })
  /-- A byte of `RXBUF`, the block not being busy. -/
  | rxbuf (i : Nat) (v : Byte) (hb : b.status.busy = false)
      (h : t = { b with mem := writeByte b.mem .rxbuf i v, vflags := VFlags.clear })

theorem writeNumber_cases (n v : Nat) (b : Block) : WriteCase b (writeNumber n v b) := by
  unfold writeNumber
  cases regOfNumber n with
  | none => exact .refused rfl
  | some r =>
    cases r with
    | cmd | status | err | errinfo | vflags | phase | txlen | txcnt | rxcnt | rlen | res => exact .refused rfl
    | ad _ | txbuf _ | resbuf _ => exact .refused rfl
    | relay => exact .operand (BitVec.ofNat 16 v) b.bank b.bstat b.index b.chan b.nreq b.plen rfl
    | bank => exact .operand b.relay (BitVec.ofNat 8 v) b.bstat b.index b.chan b.nreq b.plen rfl
    | bstat => exact .operand b.relay b.bank (BitVec.ofNat 8 v) b.index b.chan b.nreq b.plen rfl
    | index => exact .operand b.relay b.bank b.bstat (BitVec.ofNat 8 v) b.chan b.nreq b.plen rfl
    | chan => exact .operand b.relay b.bank b.bstat b.index (BitVec.ofNat 8 v) b.nreq b.plen rfl
    | nreq => exact .operand b.relay b.bank b.bstat b.index b.chan (BitVec.ofNat 8 v) b.plen rfl
    | plen => exact .operand b.relay b.bank b.bstat b.index b.chan b.nreq (BitVec.ofNat 9 v) rfl
    | pbuf i => exact .pbuf i.val (BitVec.ofNat 8 v) rfl
    | rxlen =>
      cases hb : b.status.busy with
      | true => exact .refused (unlessBusy_busy hb)
      | false => exact .rxlen _ hb (unlessBusy_idle hb)
    | rxbuf i =>
      cases hb : b.status.busy with
      | true => exact .refused (unlessBusy_busy hb)
      | false => exact .rxbuf i.val (BitVec.ofNat 8 v) hb (unlessBusy_idle hb)

/-- The block after the byte `v` was stored and counted (R153). -/
def stored (v : Byte) (b : Block) : Block :=
  { b with mem := writeByte b.mem .rxbuf b.rxcnt.toNat v, rxcnt := b.rxcnt + 1 }

/-- What one step made of the FE, and of the bytes sent. -/
inductive BlockCase (s t : State) : Prop where
  /-- Nothing. -/
  | same (h : t.blk = s.blk) (hs : t.stream.sent = s.stream.sent)
  /-- `rst` is 1 (R270). -/
  | reset (h : t.blk = resetBlock s.blk) (hs : t.stream.sent = s.stream.sent)
  /-- HOST wrote a register and started no op. -/
  | wrote (rest : List Turn) (n v : Nat) (more : List HostOp) (ht : s.turns = .host :: rest)
      (hh : s.host = .wr n v :: more) (hn : startsOp n s.blk = false) (h : t.blk = writeNumber n v s.blk)
      (hs : t.stream.sent = s.stream.sent)
  /-- HOST wrote an illegal op code (R113). -/
  | illegal (rest : List Turn) (n v : Nat) (more : List HostOp) (c : Byte) (ht : s.turns = .host :: rest)
      (hh : s.host = .wr n v :: more) (hn : startsOp n s.blk = true) (h : t.blk = illegalOp c s.blk)
      (hs : t.stream.sent = s.stream.sent)
  /-- HOST started an op (R35). -/
  | op (rest : List Turn) (n v : Nat) (more : List HostOp) (i : Instr) (ht : s.turns = .host :: rest)
      (hh : s.host = .wr n v :: more) (hn : startsOp n s.blk = true) (hd : decode (BitVec.ofNat 8 v) = .op i)
      (h : ExecCase i s.blk t.blk) (hs : t.stream.sent = s.stream.sent)
  /-- An FE step saw `cancel` (R240). -/
  | timeout (rest : List Turn) (tx : TxEvent) (rx : RxOffer) (ht : s.turns = .fe tx rx :: rest)
      (hp : s.blk.phase ≠ .idle) (hc : s.cancel = true)
      (h : t.blk = raise .timeout 0 s.blk) (hs : t.stream.sent = s.stream.sent)
  /-- An FE step saw a stream error (R240). -/
  | io (rest : List Turn) (tx : TxEvent) (rx : RxOffer) (e : Nat) (ht : s.turns = .fe tx rx :: rest)
      (hp : (s.blk.phase = .tx ∧ tx = .err e) ∨ (s.blk.phase = .rx ∧ rx = .err e)) (hc : s.cancel = false)
      (h : t.blk = raise .io (errBits s.cfg e) s.blk) (hs : t.stream.sent = s.stream.sent)
  /-- A byte was sent (R152). -/
  | sent (rest : List Turn) (rx : RxOffer) (ht : s.turns = .fe .ready rx :: rest) (hp : s.blk.phase = .tx)
      (h : t.blk = txAdvance s.blk)
      (hs : t.stream.sent = s.stream.sent ++ [readByte s.blk.mem .txbuf s.blk.txcnt.toNat])
  /-- A byte that is not the last was received (R153). -/
  | received (rest : List Turn) (tx : TxEvent) (v : Byte) (ht : s.turns = .fe tx .deliver :: rest)
      (hp : s.blk.phase = .rx) (hl : s.blk.rxcnt + 1 ≠ s.blk.rxlen) (h : t.blk = stored v s.blk)
      (hs : t.stream.sent = s.stream.sent)
  /-- The last byte was received (R153, R154). -/
  | finished (rest : List Turn) (tx : TxEvent) (v : Byte) (ht : s.turns = .fe tx .deliver :: rest)
      (hp : s.blk.phase = .rx) (hl : s.blk.rxcnt + 1 = s.blk.rxlen) (h : FinishCase (stored v s.blk) t.blk)
      (hs : t.stream.sent = s.stream.sent)

/-- A step that is over with `settle`, as a case. -/
theorem BlockCase.settled {s u : State} (hb : u.blk = s.blk) (hs : u.stream.sent = s.stream.sent) :
    BlockCase s (settle u) := by
  rcases settle_blk u with h | h
  · exact .same (h.trans hb) (by simpa using hs)
  · exact .reset (by rw [h, hb]) (by simpa using hs)

/-- The FE's step, as a case. -/
theorem BlockCase.feStep {s : State} {tx : TxEvent} {rx : RxOffer} {rest : List Turn}
    (ht : s.turns = .fe tx rx :: rest) : BlockCase s (feStep tx rx { s with turns := rest }) := by
  cases hp : s.blk.phase with
  | idle => rw [feStep_idle (by exact hp)]; exact .same rfl rfl
  | tx =>
    rw [feStep_tx (by exact hp)]
    rcases txStep_cases tx { s with turns := rest } with ⟨hc, h⟩ | ⟨hc, e, rfl, h⟩ | ⟨_, rfl, h⟩ | ⟨_, _, h⟩ <;> rw [h]
    · exact .timeout rest tx rx ht (by simp [hp]) hc rfl rfl
    · exact .io rest _ rx e ht (.inl ⟨hp, rfl⟩) hc rfl rfl
    · exact .sent rest rx ht hp rfl rfl
    · exact .same rfl rfl
  | rx =>
    rw [feStep_rx (by exact hp)]
    rcases rxStep_cases rx { s with turns := rest } with
      ⟨hc, h⟩ | ⟨hc, e, rfl, h⟩ | ⟨_, rfl, v, q, _, h⟩ | ⟨_, _, h⟩ <;> rw [h]
    · exact .timeout rest tx rx ht (by simp [hp]) hc rfl rfl
    · exact .io rest tx _ e ht (.inr ⟨hp, rfl⟩) hc rfl rfl
    · by_cases hl : s.blk.rxcnt + 1 = s.blk.rxlen
      · refine .finished rest tx v ht hp hl ?_ rfl
        have hr := rxStore_last (v := v) hl
        show FinishCase _ (rxStore v s.blk)
        rw [hr]
        exact finish_cases _
      · exact .received rest tx v ht hp hl (rxStore_more hl) rfl
    · exact .same rfl rfl

/-- Every step is one of the cases. -/
theorem block_cases {s t : State} (h : step s = .next t) : BlockCase s t := by
  cases step_cases h with
  | quiet _ h => rw [h]; exact .settled rfl rfl
  | hostLost _ _ _ h => rw [h]; exact .settled rfl rfl
  | feReset _ _ _ _ _ h => rw [h]; exact .settled rfl rfl
  | cancel _ _ _ h => rw [h]; exact .settled rfl rfl
  | rst _ _ _ h => rw [h]; exact .settled rfl rfl
  | arrive _ _ _ h => rw [h]; exact .settled rfl rfl
  | drain _ _ h => rw [h]; exact .settled rfl rfl
  | hostNone _ _ _ _ h => rw [h]; exact .same rfl rfl
  | hostRead _ _ _ _ _ _ h => rw [h]; exact .same rfl rfl
  | hostWaited _ _ _ _ _ _ h => rw [h]; exact .same rfl rfl
  | hostWaits _ _ _ _ _ _ h => rw [h]; exact .same rfl rfl
  | hostWrote rest n v more ht _ hh hs h => rw [h]; exact .wrote rest n v more ht hh hs rfl rfl
  | illegal rest n v more c ht _ hh hs _ h => rw [h]; exact .illegal rest n v more c ht hh hs rfl rfl
  | op rest n v more i ht _ hh hs hd h =>
    have hx := exec_cases h
    exact .op rest n v more i ht hh hs hd hx.2 (by rw [hx.1]; rfl)
  | fe rest tx rx ht _ h => rw [h]; exact .feStep ht

/-- No step changes the parameters (log entry 1). -/
theorem step_cfg {s t : State} (h : step s = .next t) : t.cfg = s.cfg := by
  cases step_cases h with
  | quiet _ h => rw [h]; simp
  | hostLost _ _ _ h => rw [h]; simp
  | feReset _ _ _ _ _ h => rw [h]; simp
  | cancel _ _ _ h => rw [h]; simp
  | rst _ _ _ h => rw [h]; simp
  | arrive _ _ _ h => rw [h]; simp
  | drain _ _ h => rw [h]; simp
  | hostNone _ _ _ _ h => rw [h]
  | hostRead _ _ _ _ _ _ h => rw [h]; rfl
  | hostWaited _ _ _ _ _ _ h => rw [h]
  | hostWaits _ _ _ _ _ _ h => rw [h]
  | hostWrote _ _ _ _ _ _ _ _ h => rw [h]; rfl
  | illegal _ _ _ _ _ _ _ _ _ _ h => rw [h]; rfl
  | op _ _ _ _ _ _ _ _ _ _ h => rw [(exec_cases h).1]; rfl
  | fe rest tx rx ht _ h =>
    rw [h]
    cases hp : s.blk.phase with
    | idle => rw [feStep_idle (by exact hp)]
    | tx =>
      rw [feStep_tx (by exact hp)]
      rcases txStep_cases tx { s with turns := rest } with ⟨_, h⟩ | ⟨_, e, _, h⟩ | ⟨_, _, h⟩ | ⟨_, _, h⟩ <;> rw [h] <;> rfl
    | rx =>
      rw [feStep_rx (by exact hp)]
      rcases rxStep_cases rx { s with turns := rest } with ⟨_, h⟩ | ⟨_, e, _, h⟩ | ⟨_, _, v, q, _, h⟩ | ⟨_, _, h⟩ <;>
        rw [h] <;> rfl

end Sys2Proof.Machine
end

