-- ==== Sys2Proof/Laws/Exchange.lean ====
section
/-! SUPPORT. Single steps as equations: an FE step, a HOST write, the last byte of a response; and what a HOST write leaves
alone. -/

namespace Sys2Proof.Machine

/-- An FE step with `rst` low. -/
theorem step_fe {s : State} {tx : TxEvent} {rx : RxOffer} {rest : List Turn} (hr : s.rst = false)
    (ht : s.turns = .fe tx rx :: rest) : step s = .next (feStep tx rx { s with turns := rest }) :=
  step_ended (nextAction_fe hr ht)

/-- A HOST write that starts no op. -/
theorem step_wrote {s : State} {n v : Nat} {rest : List Turn} {more : List HostOp} (hr : s.rst = false)
    (ht : s.turns = .host :: rest) (hh : s.host = .wr n v :: more) (hs : startsOp n s.blk = false) :
    step s = .next { s with turns := rest, host := more, blk := writeNumber n v s.blk } := by
  apply step_ended
  rw [nextAction_host hr ht]
  simp [hostMove, hh, writeMove, hs, withBlk]

/-- A write to a number that is not `CMD`'s starts no op. -/
theorem startsOp_other {n : Nat} {b : Block} (h : regOfNumber n ≠ some .cmd) : startsOp n b = false := by
  simp [startsOp, h]

/-- What no HOST write that starts no op changes. -/
theorem writeNumber_frame (n v : Nat) (b : Block) :
    (writeNumber n v b).phase = b.phase
    ∧ (writeNumber n v b).status = { b.status with hosterr := (writeNumber n v b).status.hosterr }
    ∧ (writeNumber n v b).err = b.err ∧ (writeNumber n v b).errinfo = b.errinfo ∧ (writeNumber n v b).cmd = b.cmd
    ∧ (writeNumber n v b).res = b.res ∧ (writeNumber n v b).rlen = b.rlen ∧ (writeNumber n v b).ad = b.ad
    ∧ (writeNumber n v b).txcnt = b.txcnt ∧ (writeNumber n v b).rxcnt = b.rxcnt ∧ (writeNumber n v b).txlen = b.txlen
    ∧ ∀ k i, k ≠ .pbuf → k ≠ .rxbuf → readByte (writeNumber n v b).mem k i = readByte b.mem k i := by
  cases writeNumber_cases n v b with
  | refused h => rw [h]; exact ⟨rfl, rfl, rfl, rfl, rfl, rfl, rfl, rfl, rfl, rfl, rfl, fun _ _ _ _ => rfl⟩
  | operand _ _ _ _ _ _ _ h =>
    rw [h]; exact ⟨rfl, rfl, rfl, rfl, rfl, rfl, rfl, rfl, rfl, rfl, rfl, fun _ _ _ _ => rfl⟩
  | pbuf _ _ h =>
    rw [h]
    exact ⟨rfl, rfl, rfl, rfl, rfl, rfl, rfl, rfl, rfl, rfl, rfl,
      fun k i h1 _ => readByte_writeByte_other _ _ (by simp [h1])⟩
  | rxlen _ _ h => rw [h]; exact ⟨rfl, rfl, rfl, rfl, rfl, rfl, rfl, rfl, rfl, rfl, rfl, fun _ _ _ _ => rfl⟩
  | rxbuf _ _ _ h =>
    rw [h]
    exact ⟨rfl, rfl, rfl, rfl, rfl, rfl, rfl, rfl, rfl, rfl, rfl,
      fun k i _ h2 => readByte_writeByte_other _ _ (by simp [h2])⟩

/-- Whether `TIMEOUT` or `IO` sets `STALE`, for an exchange op (R236). -/
theorem setsStale_exchange {b : Block} {k : ErrKind} (hc : isExchangeCode b.cmd = true) (hk : k = .timeout ∨ k = .io) :
    setsStale k b = decide (0 < b.txcnt.toNat) := by
  rcases hk with rfl | rfl <;> simp [setsStale, hc]

/-- With the sequencer consistent, a block that is not busy is idle (R25, R28). -/
theorem SeqOk.idle {b : Block} (h : SeqOk b) (hb : b.status.busy = false) : b.phase = .idle := by
  have := h.busy_iff
  rw [hb] at this
  simpa using this

/-- After reset the block is in its reset state. -/
theorem atReset_resetBlock (b : Block) : AtReset (resetBlock b) := by
  constructor <;> simp [resetBlock, Block.resetWith, operands, forgetAll, Buffer.unspecified]

/-! ## The last byte of a response -/

/-- The block once the last byte is stored, before the finish action. -/
def lastBlock (s : State) (v : Byte) : Block :=
  { s.blk with mem := writeByte s.blk.mem .rxbuf s.blk.rxcnt.toNat v, rxcnt := s.blk.rxlen }

/-- The state once the last byte is taken from the stream, with the block given. -/
def afterLast (s : State) (b : Block) : State :=
  { s with turns := s.turns.tail, stream := { s.stream with held := s.stream.held.tail }, blk := b }

theorem LastByte.count {s : State} {v : Byte} (h : LastByte s v) : s.blk.rxcnt + 1 = s.blk.rxlen := by
  have h1 := h.last
  have h2 := h.fits
  apply BitVec.eq_of_toNat_eq
  rw [len_succ (by omega)]
  omega

/-- The step of the last byte is the finish action on the stored response (R153). -/
theorem LastByte.step_eq {s : State} {v : Byte} (h : LastByte s v) :
    step s = .next (afterLast s (finish (lastBlock s v))) := by
  obtain ⟨tx, rest, ht⟩ := h.fe
  obtain ⟨q, hh⟩ := h.held
  rw [step_fe h.rst ht, feStep_rx (by exact h.phase)]
  simp [rxStep, h.cancel, rxEvent, hh, streamTake, ht, afterLast]
  rw [rxStore_last (by exact h.count)]
  show finish { s.blk with mem := _, rxcnt := s.blk.rxcnt + 1 } = _
  rw [h.count]
  rfl

/-- The response the finish action sees. -/
theorem LastByte.response {s : State} {v : Byte} (h : LastByte s v) :
    responseBytes (lastBlock s v) = received s v := by
  have h1 := h.last
  have h2 := h.fits
  unfold responseBytes received
  show readBytes (writeByte _ _ _ _) _ 0 s.blk.rxlen.toNat = _
  rw [← h1, readBytes_succ, readBytes_writeByte_other _ _ (by omega), Nat.zero_add,
    readByte_writeByte_same _ _ _ (by simp only [bufCap]; omega)]

end Sys2Proof.Machine
end

