-- ==== Sys2Proof/Laws/PerInstr.lean ====
section
/-! SUPPORT. Statements about every op as syntax, one lemma per constructor. -/

namespace Sys2Proof.Laws.Encoding

/-- The op code table of R110 and the encoder agree on this op, and a line `WR CMD` of its code is the op's own line. -/
def Statement (i : Instr) : Prop :=
  i.wf = true ∧ (encode i, i) ∈ opcodeTable ∧ decode (encode i) = .op i
    ∧ decodeTableWord 8 (encode i).toNat = some i ∧ decodeLine (encodeLine (.op i)) = some (.op i)

theorem nop : Statement .nop := by unfold Statement; decide
theorem csum : Statement .csum := by unfold Statement; decide
theorem build : Statement .build := by unfold Statement; decide
theorem check : Statement .check := by unfold Statement; decide
theorem payld : Statement .payld := by unfold Statement; decide
theorem rawcmd : Statement .rawcmd := by unfold Statement; decide
theorem rawrd : Statement .rawrd := by unfold Statement; decide
theorem rlyon : Statement .rlyon := by unfold Statement; decide
theorem rlyoff : Statement .rlyoff := by unfold Statement; decide
theorem rlyget : Statement .rlyget := by unfold Statement; decide
theorem bnkset : Statement .bnkset := by unfold Statement; decide
theorem bnkget : Statement .bnkget := by unfold Statement; decide
theorem brlyon : Statement .brlyon := by unfold Statement; decide
theorem brlyoff : Statement .brlyoff := by unfold Statement; decide
theorem ad8one : Statement .ad8one := by unfold Statement; decide
theorem ad8all : Statement .ad8all := by unfold Statement; decide
theorem ad10one : Statement .ad10one := by unfold Statement; decide
theorem ad10all : Statement .ad10all := by unfold Statement; decide
theorem clrstale : Statement .clrstale := by unfold Statement; decide
theorem sreset : Statement .sreset := by unfold Statement; decide

end Sys2Proof.Laws.Encoding
end

