-- ==== Sys2Proof/Laws/Results.lean ====
section
/-! SUPPORT. When the last op has a result, and what it depends on. -/

namespace Sys2Proof.Machine

theorem resultOf_ok {b : Block} (hd : b.status.done = true) (ho : b.status.ok = true) :
    resultOf b = some (cmdResult b) := if_pos ⟨hd, ho⟩

theorem resultOf_notOk {b : Block} (h : b.status.ok = false) : resultOf b = none :=
  if_neg fun hb => by simp [h] at hb

theorem resultOf_notDone {b : Block} (h : b.status.done = false) : resultOf b = none :=
  if_neg fun hb => by simp [h] at hb

theorem resultOf_isSome {b : Block} :
    (resultOf b).isSome = true ↔ b.status.done = true ∧ b.status.ok = true := by
  unfold resultOf
  split <;> simp_all

theorem cmdResult_op {b : Block} {i : Instr} (h : decode b.cmd = .op i) : cmdResult b = opResult i b := by
  simp [cmdResult, h]

/-- An error leaves no result (R236). -/
@[simp] theorem resultOf_raise (k : ErrKind) (e : Nat) (b : Block) : resultOf (raise k e b) = none := resultOf_notOk rfl

/-- Completion makes the op's registers its result (R130). -/
@[simp] theorem resultOf_completeOk (b : Block) : resultOf (completeOk b) = some (cmdResult (completeOk b)) :=
  resultOf_ok rfl rfl

@[simp] theorem resultOf_resetWith (m : Memory) : resultOf (Block.resetWith m) = none := resultOf_notOk rfl

/-- The result depends on nothing but `DONE`, `OK`, `CMD`, the result registers and `RESBUF`. -/
theorem resultOf_congr {b c : Block} (hd : c.status.done = b.status.done) (ho : c.status.ok = b.status.ok)
    (hc : c.cmd = b.cmd) (hr : c.res = b.res) (hl : c.rlen = b.rlen) (ha : c.ad = b.ad)
    (hm : ∀ i, readByte c.mem .resbuf i = readByte b.mem .resbuf i) : resultOf c = resultOf b := by
  have hb : readBytes c.mem .resbuf 0 b.rlen.toNat = readBytes b.mem .resbuf 0 b.rlen.toNat :=
    readBytes_congr fun i _ => hm _
  have he : ∀ i, opResult i c = opResult i b := fun i => by
    cases i <;> simp [opResult, payloadResult, hr, hl, ha, hb]
  unfold resultOf cmdResult
  rw [hd, ho, hc]
  simp only [he]

end Sys2Proof.Machine
end

