-- ==== Sys2Proof/Tests/Slice0.lean ====
section
/-! SUPPORT. Tests of the model on fixed values, and a witness for the hypotheses of each statement. Expected values are the
spec's own: a name V<n> is that vector of spec/95_test_vectors.md. -/

namespace Sys2Proof.Tests
open Sys2Proof.Machine

/-! ## Helpers -/

/-- A buffer that holds `p` from index 0. -/
def buf (p : List Byte) : Buffer := { cells := cellsFrom 0 p, era := 0 }

/-- The reset block. -/
def blk0 : Block := State.reset.blk

/-- What `LOADP p` leaves (R116). -/
def loadp (p : List Byte) (b : Block) : Block :=
  { b with mem := { b.mem with pbuf := buf p }, plen := BitVec.ofNat 9 p.length }

/-- What `LOADR p` leaves (R116). -/
def loadr (p : List Byte) (b : Block) : Block :=
  { b with mem := { b.mem with rxbuf := buf p }, rxlen := BitVec.ofNat 9 p.length, vflags := VFlags.clear }

/-- The reset state with a block of its own. -/
def onBlock (b : Block) : State := { State.reset with blk := b }

/-- The block after an op. -/
def after (i : Instr) (s : State) : Block :=
  match exec i s with
  | .next t => t.blk
  | .fault r => nomatch r
  | .refused _ => blk0

/-- The state after a step. -/
def next (s : State) : State :=
  match step s with
  | .next t => t
  | .fault r => nomatch r
  | .refused _ => State.reset

/-- `STATUS` and `ERR` as numbers. -/
def outcome (b : Block) : Nat × Nat := (statusByte b.status, errCode b.err)

/-- The request an op builds, its `STATUS`, and `RXLEN`. -/
def request (i : Instr) (b : Block) : List Byte × Nat × Nat :=
  let c := after i (onBlock b)
  (requestBytes c, statusByte c.status, c.rxlen.toNat)

/-- One HOST access about to be made. -/
def hostDo (h : HostOp) (b : Block) : State := { onBlock b with host := [h], turns := [.host] }

/-- An op of code `c` in `RX`, its request `q` sent, its response complete but for its last byte `v`. -/
def waiting (c : Byte) (q resp : List Byte) (v : Byte) : State :=
  { State.reset with
    turns := [.fe .busy .deliver], stream := { sent := q, held := [v] },
    blk := { blk0 with
      cmd := c, phase := .rx, status := { Status.clear with busy := true },
      mem := { blk0.mem with txbuf := buf q, rxbuf := buf resp },
      txlen := BitVec.ofNat 9 q.length, txcnt := BitVec.ofNat 9 q.length,
      rxcnt := BitVec.ofNat 9 resp.length, rxlen := BitVec.ofNat 9 (resp.length + 1) } }

/-- The request frame of `BNKGET` with `BANK` = 1 (spec/95_test_vectors.md 2.8). -/
def bnkReq : List Byte := [0xAA, 0x03, 0xFE, 0x7C, 0x01, 0x28]

/-- `BNKGET` in `TX` with `n` bytes sent. -/
def sending (n : Nat) (tx : TxEvent) (rx : RxOffer) : State :=
  { State.reset with
    turns := [.fe tx rx], stream := { sent := bnkReq.take n, held := [0xAA] },
    blk := { blk0 with
      cmd := 0x14, phase := .tx, status := { Status.clear with busy := true },
      mem := { blk0.mem with txbuf := buf bnkReq }, txlen := 6, txcnt := BitVec.ofNat 9 n, rxlen := 4 } }

/-! ## Decoding: words written out from R110 -/

theorem test_decode_codec :
    decode 0b00000001#8 = .op .csum ∧ decode 0b00000010#8 = .op .build ∧ decode 0b00000011#8 = .op .check
    ∧ decode 0b00000100#8 = .op .payld := by decide

theorem test_decode_raw : decode 0b00001000#8 = .op .rawcmd ∧ decode 0b00001001#8 = .op .rawrd := by decide

theorem test_decode_relay :
    decode 0b00010000#8 = .op .rlyon ∧ decode 0b00010001#8 = .op .rlyoff ∧ decode 0b00010010#8 = .op .rlyget
    ∧ decode 0b00010011#8 = .op .bnkset ∧ decode 0b00010100#8 = .op .bnkget ∧ decode 0b00010101#8 = .op .brlyon
    ∧ decode 0b00010110#8 = .op .brlyoff := by decide

theorem test_decode_adc :
    decode 0b00100000#8 = .op .ad8one ∧ decode 0b00100001#8 = .op .ad8all ∧ decode 0b00100010#8 = .op .ad10one
    ∧ decode 0b00100011#8 = .op .ad10all := by decide

theorem test_decode_system :
    decode 0b00000000#8 = .op .nop ∧ decode 0b11110000#8 = .op .clrstale ∧ decode 0b11111111#8 = .op .sreset := by
  decide

/-- The ends of the ranges R113 lists. -/
theorem test_decode_illegal :
    decode 0x05#8 = .illegalOpcode 0x05#8 ∧ decode 0x07#8 = .illegalOpcode 0x07#8
    ∧ decode 0x0A#8 = .illegalOpcode 0x0A#8 ∧ decode 0x0F#8 = .illegalOpcode 0x0F#8
    ∧ decode 0x17#8 = .illegalOpcode 0x17#8 ∧ decode 0x1F#8 = .illegalOpcode 0x1F#8
    ∧ decode 0x24#8 = .illegalOpcode 0x24#8 ∧ decode 0xEF#8 = .illegalOpcode 0xEF#8
    ∧ decode 0xF1#8 = .illegalOpcode 0xF1#8 ∧ decode 0xFE#8 = .illegalOpcode 0xFE#8 := by decide

/-- P1's and P5's lines as register numbers and values. -/
theorem test_program_encoding :
    expand (.rlyon 1) = [.wr 0x08 0x0001, .wr 0x00 0x10, .wait]
    ∧ expand (.loadp [0xFE, 0x30, 0x00, 0x00])
      = [.wr 0x100 0xFE, .wr 0x101 0x30, .wr 0x102 0x00, .wr 0x103 0x00, .wr 0x10 4]
    ∧ decodeLine (.wr 0x00 0x10) = some (.op .rlyon) := by decide

/-! ## Well-formedness: an ill-formed term for each check -/

theorem test_wf_refuses :
    (HostOp.wr 0x06 0).wf = false ∧ (HostOp.rd 0x1FF).wf = false ∧ (HostOp.rd 0x302).wf = false
    ∧ (Pseudo.rlyon 65536).wf = false ∧ (Pseudo.rlyoff 65536).wf = false ∧ (Pseudo.rlyget 65536).wf = false
    ∧ (Pseudo.bnkset 256 0).wf = false ∧ (Pseudo.bnkset 0 256).wf = false ∧ (Pseudo.bnkget 256).wf = false
    ∧ (Pseudo.brlyon 256 0).wf = false ∧ (Pseudo.brlyon 0 256).wf = false ∧ (Pseudo.brlyoff 256 0).wf = false
    ∧ (Pseudo.brlyoff 0 256).wf = false ∧ (Pseudo.ad8one 256).wf = false ∧ (Pseudo.ad10one 256).wf = false
    ∧ Config.wf { Config.standard with ioErrW := 0 } = false
    ∧ errCodeFits Config.standard 256 = false ∧ (TxEvent.err 256).wf Config.standard = false
    ∧ (RxOffer.err 256).wf Config.standard = false
    ∧ (Turn.fe (.err 256) .empty).wf Config.standard = false
    ∧ (Turn.fe .ready (.err 256)).wf Config.standard = false := by decide

theorem test_wf_refuses_long_loads :
    (Pseudo.loadp (List.replicate 256 0)).wf = false ∧ (Pseudo.loadr (List.replicate 259 0)).wf = false := by
  simp only [Pseudo.wf, List.length_replicate]
  decide

theorem test_wf_accepts :
    Instr.nop.wf = true ∧ (HostOp.wr 0x00 0).wf = true ∧ (HostOp.rd 0x6FE).wf = true ∧ HostOp.wait.wf = true
    ∧ (Pseudo.rlyon 65535).wf = true ∧ (Pseudo.loadp [0x55]).wf = true ∧ Config.standard.wf = true
    ∧ (Turn.fe (.err 255) (.err 255)).wf Config.standard = true := by decide

/-! ## Pure ops -/

/-- V142: `NOP` after a failed `BNKGET`. -/
theorem test_nop :
    (let b := after .nop (onBlock { blk0 with
        cmd := 0x14, err := .invalid, res := 0xA5, status := { Status.clear with done := true, stale := true } })
     (b.cmd, statusByte b.status, errCode b.err, b.res)) = (0x00, 0x0E, 0, 0xA5) := by decide

/-- V6. -/
theorem test_csum :
    (let b := after .csum (onBlock (loadp [0xAA, 0x04, 0xFE, 0x30, 0x00, 0x00] blk0)); (b.res, b.rlen, outcome b))
      = (0xDC, 0, 0x06, 0) := by decide

/-- V19. -/
theorem test_csum_too_long :
    (let b := after .csum (onBlock { blk0 with plen := 256, res := 7, rlen := 9 }); (b.res, b.rlen, outcome b))
      = (7, 0, 0x02, 4) := by decide

/-- V15. -/
theorem test_build :
    (let b := after .build (onBlock (loadp [0xFE, 0x30, 0x00, 0x00] blk0)); (requestBytes b, outcome b))
      = ([0xAA, 0x04, 0xFE, 0x30, 0x00, 0x00, 0xDC], 0x06, 0) := by decide

/-- V35: handshake and checksum right, length wrong. -/
theorem test_check :
    (let b := after .check (onBlock (loadr [0xAA, 0x05, 0xFE, 0x30, 0x00, 0x00, 0xDD] blk0))
     (vflagsByte b.vflags, outcome b)) = (0x0B, 0x06, 0) := by decide

/-- V39. -/
theorem test_check_too_long :
    (let b := after .check (onBlock { blk0 with rxlen := 259, vflags := { VFlags.clear with size := true } })
     (vflagsByte b.vflags, outcome b)) = (0x00, 0x02, 4) := by decide

/-- V42. -/
theorem test_payld :
    (let b := after .payld (onBlock (after .check (onBlock (loadr [0xAA, 0x04, 0xFE, 0x30, 0x00, 0x00, 0xDC] blk0))))
     (resultOf b, outcome b)) = (some ⟨none, [0xFE, 0x30, 0x00, 0x00], []⟩, 0x06, 0) := by decide

/-- V43. -/
theorem test_payld_refused :
    (let b := after .payld (onBlock (after .check (onBlock (loadr [0xAA, 0x01, 0x55, 0x01] blk0))))
     (resultOf b, outcome b)) = (none, 0x02, 4) := by decide

/-- V143. -/
theorem test_clrstale :
    (let b := after .clrstale (onBlock { blk0 with res := 0xA5, status := { Status.clear with done := true, stale := true } })
     (b.cmd, outcome b, b.res)) = (0xF0, (0x06, 0), 0xA5) := by decide

/-- V144. -/
theorem test_sreset :
    (let b := after .sreset (onBlock { loadp [0x55] blk0 with
        bank := 1, cmd := 0xF0, status := { Status.clear with done := true, ok := true, stale := true } })
     (b.cmd, b.bank, outcome b, b.mem.pbuf.cells)) = (0x00, 0, (0x00, 0), []) := by decide

/-! ## Exchange ops: the request of the acceptance step -/

/-- V122. -/
theorem test_rawcmd :
    request .rawcmd (loadp [0xFE, 0x30, 0x00, 0x00] blk0) = ([0xAA, 0x04, 0xFE, 0x30, 0x00, 0x00, 0xDC], 0x01, 4) := by
  decide

/-- V125. -/
theorem test_rawrd : request .rawrd (loadp [] blk0) = ([0xAA, 0x00, 0xAA], 0x01, 3) := by decide

/-- V55. -/
theorem test_rlyon :
    request .rlyon { blk0 with relay := 300 } = ([0xAA, 0x04, 0xFE, 0x30, 0x2B, 0x01, 0x08], 0x01, 4) := by decide

/-- V58. -/
theorem test_relay_zero :
    outcome (after .rlyon (onBlock blk0)) = (0x02, 4) ∧ outcome (after .rlyoff (onBlock blk0)) = (0x02, 4)
    ∧ outcome (after .rlyget (onBlock blk0)) = (0x02, 4) := by decide

/-- V64. -/
theorem test_rlyoff :
    request .rlyoff { blk0 with relay := 300 } = ([0xAA, 0x04, 0xFE, 0x2F, 0x2B, 0x01, 0x07], 0x01, 4) := by decide

/-- V66. -/
theorem test_rlyget :
    request .rlyget { blk0 with relay := 9 } = ([0xAA, 0x04, 0xFE, 0x2C, 0x08, 0x00, 0xE0], 0x01, 4) := by decide

/-- V69: the status byte comes before the bank. -/
theorem test_bnkset :
    request .bnkset { blk0 with bstat := 0xA5, bank := 1 } = ([0xAA, 0x04, 0xFE, 0x8C, 0xA5, 0x01, 0xDE], 0x01, 4) := by
  decide

/-- V71. -/
theorem test_bnkget : request .bnkget { blk0 with bank := 1 } = (bnkReq, 0x01, 4) := by decide

/-- V75. -/
theorem test_brlyon :
    request .brlyon { blk0 with index := 148, bank := 0xFF } = ([0xAA, 0x04, 0xFE, 0x30, 0xFF, 0xFF, 0xDA], 0x01, 4) := by
  decide

/-- V79. -/
theorem test_brlyon_sym3 :
    requestBytes (after .brlyon { onBlock { blk0 with index := 1, bank := 1 } with
      cfg := { Config.standard with brlyonForm := .sym3 } }) = [0xAA, 0x03, 0xFE, 0x6C, 0x01, 0x18] := by decide

/-- V78. -/
theorem test_brlyoff :
    request .brlyoff { blk0 with index := 156, bank := 2 } = ([0xAA, 0x03, 0xFE, 0xFF, 0x02, 0xAC], 0x01, 4) := by decide

/-- V80, V94. -/
theorem test_offset_too_large :
    outcome (after .brlyon (onBlock { blk0 with index := 149 })) = (0x02, 4)
    ∧ outcome (after .brlyoff (onBlock { blk0 with index := 157 })) = (0x02, 4)
    ∧ outcome (after .ad8one (onBlock { blk0 with chan := 107 })) = (0x02, 4)
    ∧ outcome (after .ad10one (onBlock { blk0 with chan := 107 })) = (0x02, 4) := by decide

/-- V85. -/
theorem test_ad8one : request .ad8one { blk0 with chan := 106 } = ([0xAA, 0x02, 0xFE, 0xFF, 0xA9], 0x01, 4) := by decide

/-- V86. -/
theorem test_ad8all : request .ad8all blk0 = ([0xAA, 0x02, 0xFE, 0xA6, 0x50], 0x01, 11) := by decide

/-- V88, with `AD10ONE_NREQ` = 1: 4 bytes. -/
theorem test_ad10one : request .ad10one blk0 = ([0xAA, 0x02, 0xFE, 0x95, 0x3F], 0x01, 4) := by decide

/-- V87. -/
theorem test_ad10all : request .ad10all blk0 = ([0xAA, 0x02, 0xFE, 0xA6, 0x50], 0x01, 19) := by decide

/-! ## Exchange ops: the step of the last response byte -/

/-- V62: the acknowledgment byte is not examined. -/
theorem test_ack_finish :
    (let t := next (waiting 0x10 [] [0xAA, 0x01, 0x00] 0xAB)
     (outcome t.blk, vflagsByte t.blk.vflags, t.blk.rlen, t.blk.res)) = ((0x06, 0), 0x1F, 0, 0) := by decide

/-- V124: `RAWRD` writes no `RES`. -/
theorem test_rawrd_finish :
    (let t := next (waiting 0x09 [] [0xAA, 0x01, 0xA5] 0x50); (outcome t.blk, resultOf t.blk, t.blk.res))
      = ((0x06, 0), some ⟨none, [0xA5], []⟩, 0) := by decide

/-- V65, V67. -/
theorem test_rlyget_finish :
    (next (waiting 0x12 [] [0xAA, 0x01, 0x01] 0xAC)).blk.res = 1
    ∧ (next (waiting 0x12 [] [0xAA, 0x01, 0x02] 0xAD)).blk.res = 0 := by decide

/-- V71. -/
theorem test_bnkget_finish :
    (let t := next (waiting 0x14 [] [0xAA, 0x01, 0xA5] 0x50); (outcome t.blk, resultOf t.blk, t.blk.res))
      = ((0x06, 0), some ⟨some 0xA5, [0xA5], []⟩, 0xA5) := by decide

/-- V119: bad checksum. -/
theorem test_invalid_finish :
    (let t := next (waiting 0x14 [] [0xAA, 0x01, 0xA5] 0x51)
     (outcome t.blk, vflagsByte t.blk.vflags, t.blk.rlen, resultOf t.blk, t.blk.mem.resbuf.cells))
      = ((0x0A, 1), 0x07, 0, none, []) := by decide

/-- V81. -/
theorem test_ad8one_finish : (next (waiting 0x20 [] [0xAA, 0x01, 0x7F] 0x2A)).blk.res = 0x7F := by decide

/-- V86. -/
theorem test_ad8all_finish :
    (next (waiting 0x21 [] [0xAA, 0x08, 0x00, 0x01, 0x02, 0x03, 0x80, 0xFE, 0xFF, 0x10] 0x45)).blk.ad
      = #v[0, 1, 2, 3, 128, 254, 255, 16] := by decide

/-- V92, with `AD10ONE_NREQ` = 2. -/
theorem test_ad10one_finish :
    (let t := next (waiting 0x22 [] [0xAA, 0x02, 0x02, 0x00] 0xAE); (outcome t.blk, t.blk.ad))
      = ((0x06, 0), #v[512, 0, 0, 0, 0, 0, 0, 0]) := by decide

/-- V88: `SHORT`, without `STALE`; `RESBUF` is what an earlier op left (R242). -/
theorem test_ad10one_short :
    (let s := waiting 0x22 [] [0xAA, 0x01, 0x7F] 0x2A
     let t := next { s with blk := { s.blk with mem := { s.blk.mem with resbuf := buf [0x11, 0x22] } } }
     (outcome t.blk, vflagsByte t.blk.vflags, t.blk.rlen, t.blk.ad, t.blk.mem.resbuf))
      = ((0x02, 5), 0x1F, 0, #v[0, 0, 0, 0, 0, 0, 0, 0], buf [0x11, 0x22]) := by decide

/-- V87. -/
theorem test_ad10all_finish :
    (next (waiting 0x23 [] [0xAA, 0x10, 0x00, 0x00, 0x03, 0xFF, 0x01, 0x00, 0x02, 0x80, 0xFC, 0x01, 0xFF, 0xFF, 0x00, 0xFF,
      0x01, 0x23] 0x5D)).blk.ad = #v[0, 1023, 256, 640, 1, 1023, 255, 291] := by decide

/-! ## The sequencer, HOST and reset -/

/-- V101, V102, V105, V106: one byte a step, and the RX channel is not seen in `TX`. -/
theorem test_tx_step :
    (let t := next (sending 0 .ready .deliver); (t.blk.phase, t.blk.txcnt, t.stream.sent, t.stream.held))
      = (.tx, 1, [0xAA], [0xAA])
    ∧ (next (sending 0 .ready (.err 9))).blk.phase = .tx
    ∧ (let t := next (sending 5 .ready .empty); (t.blk.phase, t.blk.txcnt, t.stream.sent)) = (.rx, 6, bnkReq) := by decide

/-- V110, V111, V115, V116, V117: `cancel` before a stream error, `STALE` only once a byte was sent. -/
theorem test_tx_errors :
    outcome (next { sending 0 .ready .empty with cancel := true }).blk = (0x02, 2)
    ∧ outcome (next { sending 3 .ready .empty with cancel := true }).blk = (0x0A, 2)
    ∧ outcome (next (sending 0 (.err 5) .empty)).blk = (0x02, 3)
    ∧ (let t := next (sending 2 (.err 5) .empty); (outcome t.blk, t.blk.errinfo, t.stream.sent)) = ((0x0A, 3), 5, [0xAA, 0x03])
    ∧ (let t := next { sending 1 (.err 5) .empty with cancel := true }; (outcome t.blk, t.blk.errinfo)) = ((0x0A, 2), 0) := by
  decide

/-- V103, V113: an `Empty` step changes nothing; `cancel` comes before the last byte, which stays with the stream. -/
theorem test_rx_step :
    (next { waiting 0x14 bnkReq [0xAA, 0x01, 0xA5] 0x50 with turns := [.fe .busy .empty] }).blk
      = (waiting 0x14 bnkReq [0xAA, 0x01, 0xA5] 0x50).blk
    ∧ (let t := next { waiting 0x14 bnkReq [0xAA, 0x01, 0xA5] 0x50 with cancel := true }
       (outcome t.blk, t.blk.rxcnt, t.stream.held)) = ((0x0A, 2), 3, [0x50]) := by decide

/-- V130, V132: writes that are refused while busy. -/
theorem test_busy_writes :
    (let t := next (hostDo (.wr 0x00 0x11) (sending 0 .ready .empty).blk); (t.blk.cmd, outcome t.blk, t.blk.phase))
      = (0x14, (0x11, 0), .tx)
    ∧ (let t := next (hostDo (.wr 0x400 0) (sending 0 .ready .empty).blk); (outcome t.blk, t.blk.mem.rxbuf.cells))
      = ((0x11, 0), []) := by decide

/-- V45, V59: any accepted write to `RXBUF` clears `VFLAGS`; `RELAY` takes its value modulo 2^16. -/
theorem test_writes :
    vflagsByte (next (hostDo (.wr 0x402 0x55) (after .check (onBlock (loadr [0xAA, 0x01, 0x55, 0x00] blk0))))).blk.vflags = 0
    ∧ (next (hostDo (.wr 0x08 65536) { blk0 with relay := 7 })).blk.relay = 0 := by decide

/-- V131: an illegal op code. -/
theorem test_illegal_op :
    (let t := next (hostDo (.wr 0x00 0x05) blk0); (t.blk.cmd, outcome t.blk)) = (0x05, (0x02, 4)) := by decide

/-- R270: raising `rst` puts an op in flight back to the reset state; nothing is sent. -/
theorem test_hard_reset :
    (let t := next { sending 3 .ready .empty with turns := [.rst true] }
     (t.blk.phase, t.blk.cmd, outcome t.blk, t.stream.sent)) = (.idle, 0, (0, 0), [0xAA, 0x03, 0xFE]) := by decide

/-- The host's question: a table word runs as the next step. -/
theorem test_with_fetch_word :
    (next (State.reset.withFetchWord 8 0x13)).blk.cmd = 0x13
    ∧ requestBytes (next (State.reset.withFetchWord 8 0x13)).blk = [0xAA, 0x04, 0xFE, 0x8C, 0x00, 0x00, 0x38] := by decide

/-! ## Witnesses: for each statement with hypotheses, concrete states and operands that meet them, at the ends of their ranges -/

theorem witness_IllegalOpcodesCompleteWithArg :
    decode 0xFE#8 = .illegalOpcode 0xFE#8 ∧ (hostDo (.wr 0x00 0xFE) blk0).rst = false
    ∧ (hostDo (.wr 0x00 0xFE) blk0).blk.status.busy = false ∧ (hostDo (.wr 0x00 0xFE) blk0).blk.phase = .idle
    ∧ (hostDo (.wr 0x00 0xFE) blk0).turns = [.host]
    ∧ (hostDo (.wr 0x00 0xFE) blk0).host = [.wr 0x00 (0xFE#8 : Byte).toNat] := by decide

theorem witness_RegisterNumbersRoundTrip :
    regOfNumber 0x6FE = some (.resbuf 254) ∧ regOfNumber 0x00 = some .cmd := by decide

theorem witness_ProgramLinesRoundTrip :
    (∀ i, decode (BitVec.ofNat 8 0x05) ≠ .op i) ∧ decodeLine (.wr 0x00 0x05) = some (.wr .cmd 0x05)
    ∧ decodeLine (.wr 0x00 256) = some (.wr .cmd 256) ∧ decodeLine (.wr 0x08 0) = some (.wr .relay 0) := by
  refine ⟨fun i => ?_, by decide⟩
  cases i <;> decide

theorem witness_ChecksumIsTheSumModulo256 : [(0x01#8 : Byte), 0x02#8].Perm [0x02#8, 0x01#8] := by decide

theorem witness_FrameLayoutAndLengths :
    ([] : List Byte).length ≤ 255 ∧ (List.replicate 255 (0 : Byte)).length ≤ 255 ∧ [(0xAA#8 : Byte), 0#8].length < 3
    ∧ 258 < (List.replicate 259 (0 : Byte)).length := by
  simp only [List.length_replicate]
  decide

theorem witness_FrameAndPayloadRoundTrip :
    isValid [0xAA, 0x00, 0xAA] = true ∧ ([] : List Byte).length ≤ 255 := by decide

theorem witness_EverySingleByteChangeInvalidates :
    isValid [0xAA, 0x01, 0x55, 0x00] = true ∧ 3 < [(0xAA : Byte), 0x01, 0x55, 0x00].length
    ∧ [(0xAA : Byte), 0x01, 0x55, 0x00][3]? ≠ some 0xFF ∧ [(0x01 : Byte), 0x02].length ≤ 255
    ∧ [(0x01 : Byte), 0x02].Perm [0x02, 0x01]
    ∧ (([] : List Byte) ++ 0x00 :: [] ++ 0x00 :: []).length ≤ 255 := by decide

theorem witness_RelayIndexIsEncodedLittleEndianMinusOne :
    (1 : RelayIdx) ≠ 0 ∧ (65535 : RelayIdx) ≠ 0 ∧ (onBlock blk0).blk.relay = 0 := by decide

theorem witness_ResponseDecodersIgnoreTheRightBits :
    (0xFF#8 : Byte) ≠ 1#8 ∧ (0xFF#8 : Byte).extractLsb' 0 2 = (0x03#8 : Byte).extractLsb' 0 2 := by decide

theorem witness_AliasedRequestsAreTheSame :
    (onBlock { blk0 with chan := 106 }).blk.chan.toNat ≤ 106 ∧ (onBlock { blk0 with chan := 17 }).blk.chan = 17
    ∧ (onBlock { blk0 with index := 148, bank := 254 }).cfg.brlyonForm = .table4
    ∧ (onBlock { blk0 with index := 148, bank := 254 }).blk.index.toNat ≤ 148
    ∧ (onBlock { blk0 with relay := 65280 }).blk.relay.toNat
      = (onBlock { blk0 with index := 148, bank := 254 }).blk.bank.toNat * 256 + 107
        + (onBlock { blk0 with index := 148, bank := 254 }).blk.index.toNat + 1 := by
  decide

theorem witness_CsumPutsTheChecksumInRes :
    (onBlock { blk0 with plen := 255 }).blk.plen.toNat ≤ 255 ∧ 255 < (onBlock { blk0 with plen := 256 }).blk.plen.toNat := by
  decide

theorem witness_BuildPutsTheFrameInTxbuf :
    (onBlock { blk0 with plen := 0 }).blk.plen.toNat ≤ 255 ∧ (onBlock { blk0 with plen := 255 }).blk.plen.toNat ≤ 255
    ∧ 255 < (onBlock { blk0 with plen := 511 }).blk.plen.toNat ∧ BufId.pbuf ≠ BufId.txbuf := by decide

theorem witness_CheckSetsTheFiveFlags :
    (onBlock { blk0 with rxlen := 2 }).blk.rxlen.toNat < 3
    ∧ 3 ≤ (onBlock { blk0 with rxlen := 3 }).blk.rxlen.toNat
    ∧ (onBlock { blk0 with rxlen := 258 }).blk.rxlen.toNat ≤ 258
    ∧ 258 < (onBlock { blk0 with rxlen := 259 }).blk.rxlen.toNat := by decide

/-- The block after `CHECK` on the smallest valid packet. -/
def checked : Block := after .check (onBlock (loadr [0xAA, 0x00, 0xAA] blk0))

theorem witness_PayldCopiesTheValidatedPayload :
    TrustOk (onBlock checked).blk ∧ (onBlock checked).blk.vflags.valid = true ∧ (onBlock blk0).blk.vflags.valid = false :=
  ⟨⟨fun _ => by decide, fun _ => by decide⟩, by decide, by decide⟩

theorem witness_ArgIsRaisedForExactlyTheListedCauses :
    argCause blk0 .rlyon ∧ argCause { blk0 with plen := 256 } .csum ∧ argCause { blk0 with rxlen := 259 } .check
    ∧ argCause blk0 .payld ∧ argCause { blk0 with index := 149 } .brlyon ∧ argCause { blk0 with index := 157 } .brlyoff
    ∧ argCause { blk0 with chan := 107 } .ad8one ∧ ¬ argCause { blk0 with chan := 106 } .ad10one := by
  simp only [argCause]
  decide

/-- A state whose `RXBUF[0..RXLEN)` is the frame that `BUILD` of the empty payload leaves in `TXBUF`. -/
theorem witness_CodecOpsRoundTrip :
    (onBlock (loadp [] blk0)).blk.plen.toNat ≤ 255
    ∧ (onBlock (loadr [0xAA, 0x00, 0xAA] blk0)).blk.rxlen = (after .build (onBlock (loadp [] blk0))).txlen
    ∧ readBytes (onBlock (loadr [0xAA, 0x00, 0xAA] blk0)).blk.mem .rxbuf 0 3
      = readBytes (after .build (onBlock (loadp [] blk0))).mem .txbuf 0 3 := by decide

theorem witness_RawOpsStartWithPbuf :
    (onBlock { blk0 with plen := 255 }).blk.plen.toNat ≤ 255 ∧ 255 < (onBlock { blk0 with plen := 256 }).blk.plen.toNat := by
  decide

theorem witness_RelayOpsStartWithTheEncodedIndex :
    (onBlock { blk0 with relay := 65535 }).blk.relay ≠ 0
    ∧ (0xFE#8 : Byte).toNat = ((onBlock { blk0 with relay := 65535 }).blk.relay.toNat - 1) % 256
    ∧ (0xFF#8 : Byte).toNat = ((onBlock { blk0 with relay := 65535 }).blk.relay.toNat - 1) / 256 := by decide

theorem witness_BankRelativeOpsStartOrRefuse :
    (0xFF#8 : Byte).toNat = 107 + (onBlock { blk0 with index := 148 }).blk.index.toNat
    ∧ (0xFF#8 : Byte).toNat = 99 + (onBlock { blk0 with index := 156 }).blk.index.toNat
    ∧ (onBlock blk0).cfg.brlyonForm = .table4
    ∧ ({ onBlock blk0 with cfg := { Config.standard with brlyonForm := .sym3 } } : State).cfg.brlyonForm = .sym3
    ∧ 148 < (onBlock { blk0 with index := 149 }).blk.index.toNat
    ∧ 156 < (onBlock { blk0 with index := 157 }).blk.index.toNat := by decide

theorem witness_SingleAdcReadsStartOrRefuse :
    (0xFF#8 : Byte).toNat = 149 + (onBlock { blk0 with chan := 106 }).blk.chan.toNat
    ∧ (onBlock blk0).cfg.ad10oneNreq = .one
    ∧ ({ onBlock blk0 with cfg := { Config.standard with ad10oneNreq := .two } } : State).cfg.ad10oneNreq = .two
    ∧ 106 < (onBlock { blk0 with chan := 107 }).blk.chan.toNat := by decide

theorem witness_TxStepSendsOneByteOrEnds :
    (sending 0 .ready .empty).rst = false ∧ (sending 0 .ready .empty).blk.phase = .tx
    ∧ isExchangeCode (sending 0 .ready .empty).blk.cmd = true ∧ (sending 0 .ready .empty).turns = [.fe .ready .empty]
    ∧ (sending 0 .ready .empty).cancel = false ∧ ({ sending 0 .ready .empty with cancel := true } : State).cancel = true
    ∧ (sending 0 (.err 255) .empty).turns = [.fe (.err 255) .empty] ∧ 255 < 2 ^ (sending 0 (.err 255) .empty).cfg.ioErrW
    ∧ (sending 0 .busy .empty).turns = [.fe .busy .empty] := by decide

theorem witness_RxStepStoresOneByteOrEnds :
    (waiting 0x14 bnkReq [0xAA, 0x01] 0xA5).rst = false ∧ (waiting 0x14 bnkReq [0xAA, 0x01] 0xA5).blk.phase = .rx
    ∧ isExchangeCode (waiting 0x14 bnkReq [0xAA, 0x01] 0xA5).blk.cmd = true
    ∧ (waiting 0x14 bnkReq [0xAA, 0x01] 0xA5).turns = [.fe .busy .deliver]
    ∧ (waiting 0x14 bnkReq [0xAA, 0x01] 0xA5).cancel = false
    ∧ ({ waiting 0x14 bnkReq [0xAA, 0x01] 0xA5 with cancel := true } : State).cancel = true
    ∧ 255 < 2 ^ (waiting 0x14 bnkReq [0xAA, 0x01] 0xA5).cfg.ioErrW
    ∧ (waiting 0x14 bnkReq [0xAA, 0x01] 0xA5).stream.held = [0xA5]
    ∧ (let s := { waiting 0x14 bnkReq [0xAA, 0x01] 0xA5 with
          blk := { (waiting 0x14 bnkReq [0xAA, 0x01] 0xA5).blk with rxlen := 258, rxcnt := 256 } }
       s.blk.rxcnt.toNat + 1 < s.blk.rxlen.toNat ∧ s.blk.rxlen.toNat ≤ 258) := by decide

/-- The state before the last byte of any response meets `LastByte`. -/
theorem lastByte_waiting (c : Byte) (q resp : List Byte) (v : Byte) (h : resp.length ≤ 257) :
    LastByte (waiting c q resp v) v := by
  refine ⟨rfl, rfl, rfl, ⟨_, _, rfl⟩, ⟨_, rfl⟩, ?_, ?_⟩
  · show (BitVec.ofNat 9 resp.length).toNat + 1 = (BitVec.ofNat 9 (resp.length + 1)).toNat
    rw [toNat_len (by omega), toNat_len (by omega)]
  · show (BitVec.ofNat 9 (resp.length + 1)).toNat ≤ 258
    rw [toNat_len (by omega)]
    omega

theorem witness_InvalidResponseEndsInvalid :
    LastByte (waiting 0x14 bnkReq [0xAA, 0x01, 0xA5] 0x51) 0x51
    ∧ isValid (received (waiting 0x14 bnkReq [0xAA, 0x01, 0xA5] 0x51) 0x51) = false :=
  ⟨lastByte_waiting _ _ _ _ (by decide), by decide⟩

theorem witness_CommandOnlyOpsEndOkOnAnyValidAck :
    LastByte (waiting 0x10 bnkReq [0xAA, 0x01, 0x55] 0x00) 0x00
    ∧ (waiting 0x10 bnkReq [0xAA, 0x01, 0x55] 0x00).blk.cmd = encode .rlyon
    ∧ isValid (received (waiting 0x10 bnkReq [0xAA, 0x01, 0x55] 0x00) 0x00) = true :=
  ⟨lastByte_waiting _ _ _ _ (by decide), by decide, by decide⟩

theorem witness_ByteReadsReturnThePayload :
    (LastByte (waiting 0x14 bnkReq [0xAA, 0x01, 0xA5] 0x50) 0x50
      ∧ (waiting 0x14 bnkReq [0xAA, 0x01, 0xA5] 0x50).blk.rxlen.toNat = 4
      ∧ (waiting 0x14 bnkReq [0xAA, 0x01, 0xA5] 0x50).blk.cmd = encode .bnkget
      ∧ isValid (received (waiting 0x14 bnkReq [0xAA, 0x01, 0xA5] 0x50) 0x50) = true)
    ∧ LastByte (waiting 0x09 bnkReq [0xAA, 0x00] 0xAA) 0xAA
      ∧ (waiting 0x09 bnkReq [0xAA, 0x00] 0xAA).blk.cmd = encode .rawrd
      ∧ isValid (received (waiting 0x09 bnkReq [0xAA, 0x00] 0xAA) 0xAA) = true
      ∧ (waiting 0x12 bnkReq [0xAA, 0x01, 0xA5] 0x50).blk.cmd = encode .rlyget
      ∧ (waiting 0x20 bnkReq [0xAA, 0x01, 0xA5] 0x50).blk.cmd = encode .ad8one :=
  ⟨⟨lastByte_waiting _ _ _ _ (by decide), by decide, by decide, by decide⟩, lastByte_waiting _ _ _ _ (by decide), by decide,
    by decide, by decide, by decide⟩

/-- The response of V86, without its last byte. -/
def resp8 : List Byte := [0xAA, 0x08, 0x00, 0x01, 0x02, 0x03, 0x80, 0xFE, 0xFF, 0x10]

/-- The response of V87, without its last byte. -/
def resp10 : List Byte :=
  [0xAA, 0x10, 0x00, 0x00, 0x03, 0xFF, 0x01, 0x00, 0x02, 0x80, 0xFC, 0x01, 0xFF, 0xFF, 0x00, 0xFF, 0x01, 0x23]

theorem witness_AllAdcReadsFillTheEightSlots :
    (LastByte (waiting 0x21 bnkReq resp8 0x45) 0x45
      ∧ isValid (received (waiting 0x21 bnkReq resp8 0x45) 0x45) = true
      ∧ (waiting 0x21 bnkReq resp8 0x45).blk.cmd = encode .ad8all
      ∧ (waiting 0x21 bnkReq resp8 0x45).blk.rxlen.toNat = 11)
    ∧ LastByte (waiting 0x23 bnkReq resp10 0x5D) 0x5D
      ∧ isValid (received (waiting 0x23 bnkReq resp10 0x5D) 0x5D) = true
      ∧ (waiting 0x23 bnkReq resp10 0x5D).blk.cmd = encode .ad10all
      ∧ (waiting 0x23 bnkReq resp10 0x5D).blk.rxlen.toNat = 19 :=
  ⟨⟨lastByte_waiting _ _ _ _ (by decide), by decide, by decide, by decide⟩, lastByte_waiting _ _ _ _ (by decide), by decide,
    by decide, by decide⟩

theorem witness_AdTenOneDecodesTwoBytesOrEndsShort :
    (LastByte (waiting 0x22 bnkReq [0xAA, 0x02, 0x02, 0x00] 0xAE) 0xAE
      ∧ (waiting 0x22 bnkReq [0xAA, 0x02, 0x02, 0x00] 0xAE).blk.cmd = encode .ad10one
      ∧ isValid (received (waiting 0x22 bnkReq [0xAA, 0x02, 0x02, 0x00] 0xAE) 0xAE) = true
      ∧ (waiting 0x22 bnkReq [0xAA, 0x02, 0x02, 0x00] 0xAE).blk.rxlen.toNat = 5)
    ∧ LastByte (waiting 0x22 bnkReq [0xAA, 0x01, 0x7F] 0x2A) 0x2A
      ∧ isValid (received (waiting 0x22 bnkReq [0xAA, 0x01, 0x7F] 0x2A) 0x2A) = true
      ∧ (waiting 0x22 bnkReq [0xAA, 0x01, 0x7F] 0x2A).blk.rxlen.toNat = 4 :=
  ⟨⟨lastByte_waiting _ _ _ _ (by decide), by decide, by decide, by decide⟩, lastByte_waiting _ _ _ _ (by decide), by decide,
    by decide⟩

theorem witness_TheUnusedChannelIsNotSeen :
    (sending 0 .ready .empty).blk.phase ≠ .rx ∧ (waiting 0x14 bnkReq [0xAA, 0x01, 0xA5] 0x50).blk.phase ≠ .tx := by decide

theorem witness_CancelIsReadOnlyInTxAndRxSteps :
    (hostDo (.rd 0x01) blk0).blk.phase = .idle
    ∧ (∀ tx rx rest, (hostDo (.rd 0x01) (sending 0 .ready .empty).blk).turns ≠ .fe tx rx :: rest)
    ∧ ∃ t, step (hostDo (.rd 0x01) blk0) = .next t :=
  ⟨rfl, (fun _ _ _ h => by cases h), ⟨_, rfl⟩⟩

/-- The whole invariant holds in a state of each phase: `IDLE`, `TX` and `RX`. -/
theorem runInv_idle : RunInv (hostDo .wait blk0) := by
  refine ⟨by unfold MemOk; decide, ⟨?_, ?_, ?_, ?_, ?_, ?_⟩, ⟨?_, ?_, ?_, ?_, ?_⟩, ⟨?_, ?_⟩, ⟨?_, ?_⟩⟩ <;> decide

theorem runInv_sending : RunInv (sending 3 .ready .empty) := by
  refine ⟨by unfold MemOk; decide, ⟨?_, ?_, ?_, ?_, ?_, ?_⟩, ⟨?_, ?_, ?_, ?_, ?_⟩, ⟨?_, ?_⟩, ⟨?_, ?_⟩⟩ <;> decide

theorem runInv_waiting : RunInv (waiting 0x14 bnkReq [0xAA, 0x01, 0xA5] 0x50) := by
  refine ⟨by unfold MemOk; decide, ⟨?_, ?_, ?_, ?_, ?_, ?_⟩, ⟨?_, ?_, ?_, ?_, ?_⟩, ⟨?_, ?_⟩, ⟨?_, ?_⟩⟩ <;> decide

theorem runInv_done : RunInv (hostDo (.rd 0x19) (after .csum (onBlock blk0))) := by
  refine ⟨by unfold MemOk; decide, ⟨?_, ?_, ?_, ?_, ?_, ?_⟩, ⟨?_, ?_, ?_, ?_, ?_⟩, ⟨?_, ?_⟩, ⟨?_, ?_⟩⟩ <;> decide

theorem witness_AnExchangeThatEndsOkReceivedAValidResponse :
    RunInv (waiting 0x14 bnkReq [0xAA, 0x01, 0xA5] 0x50)
    ∧ (waiting 0x14 bnkReq [0xAA, 0x01, 0xA5] 0x50).blk.status.busy = true
    ∧ ∃ t, step (waiting 0x14 bnkReq [0xAA, 0x01, 0xA5] 0x50) = .next t ∧ t.blk.status.ok = true :=
  ⟨runInv_waiting, by decide, ⟨_, rfl, by decide⟩⟩

theorem witness_PhaseMovesOnlyAsTheTableSays :
    (RunInv (sending 3 .ready .empty) ∧ (sending 3 .ready .empty).blk.phase = .tx)
    ∧ (RunInv (waiting 0x14 bnkReq [0xAA, 0x01, 0xA5] 0x50)
      ∧ (next (waiting 0x14 bnkReq [0xAA, 0x01, 0xA5] 0x50)).blk.phase = .idle)
    ∧ ((hostDo (.wr 0x00 0x14) blk0).blk.phase = .idle ∧ (next (hostDo (.wr 0x00 0x14) blk0)).blk.phase = .tx)
    ∧ (next (sending 5 .ready .empty)).blk.phase = .rx
    ∧ (next (sending 3 (.err 1) .empty)).blk.phase = .idle :=
  ⟨⟨runInv_sending, by decide⟩, ⟨runInv_waiting, by decide⟩, by decide, by decide, by decide⟩

theorem witness_ErrorsLeaveResultsAlone :
    (∃ t, step (sending 3 (.err 1) .empty) = .next t ∧ t.blk.status.done = true ∧ t.blk.status.ok = false)
    ∧ (sending 3 (.err 1) .empty).blk.phase ≠ .idle ∧ (sending 3 (.err 1) .empty).blk.status.done = false
    ∧ (∃ t, step (waiting 0x22 [] [0xAA, 0x01, 0x7F] 0x2A) = .next t ∧ t.blk.status.done = true
      ∧ t.blk.status.ok = false ∧ t.blk.err = .short)
    ∧ (waiting 0x22 [] [0xAA, 0x01, 0x7F] 0x2A).blk.phase ≠ .idle
    ∧ (waiting 0x22 [] [0xAA, 0x01, 0x7F] 0x2A).blk.status.done = false :=
  ⟨⟨_, rfl, by decide, by decide⟩, by decide, by decide, ⟨_, rfl, by decide, by decide, by decide⟩, by decide, by decide⟩

/-- No op has ended yet; one ends in the step; one has ended and HOST reads its result. -/
theorem witness_ResultsAreReadableOnlyWithOk :
    (RunInv (hostDo .wait blk0) ∧ ∃ t, step (hostDo .wait blk0) = .next t ∧ t.blk.status.done = false)
    ∧ (RunInv (waiting 0x14 bnkReq [0xAA, 0x01, 0xA5] 0x50)
      ∧ ∃ t, step (waiting 0x14 bnkReq [0xAA, 0x01, 0xA5] 0x50) = .next t ∧ t.blk.status.done = true)
    ∧ RunInv (hostDo (.rd 0x19) (after .csum (onBlock blk0)))
      ∧ resultOf (hostDo (.rd 0x19) (after .csum (onBlock blk0))).blk = some ⟨some 0, [], []⟩ :=
  ⟨⟨runInv_idle, _, rfl, by decide⟩, ⟨runInv_waiting, _, rfl, by decide⟩, runInv_done, by decide⟩

theorem witness_OnlyTheSequencerTouchesTheStream : ∃ t, step (sending 3 .ready .empty) = .next t := ⟨_, rfl⟩

/-- HOST's write of `i`'s code about to be made, then a stream that accepts `n` bytes and delivers `resp`. -/
def friendly (i : Instr) (cfg : Config) (b : Block) (n : Nat) (resp : List Byte) : State :=
  { State.reset with
    cfg := cfg, blk := b, host := [.wr 0x00 (encode i).toNat], stream := { sent := [], held := resp },
    turns := .host :: (List.replicate (n + 3) (.fe .ready .empty)
      ++ (List.replicate resp.length (.fe .busy .deliver) ++ [])) }

/-- `s` meets every hypothesis of the statement, for the op `i` with payload `p` and the response `resp`. -/
def Friendly (i : Instr) (p resp : List Byte) (s : State) : Prop :=
  requestOf s.cfg s.blk i = some (p, resp.length) ∧ (i = .ad10one → s.cfg.ad10oneNreq = .two)
  ∧ s.rst = false ∧ s.cancel = false ∧ s.blk.status.busy = false ∧ s.host = .wr 0x00 (encode i).toNat :: []
  ∧ s.turns = .host :: (List.replicate (p.length + 3) (.fe .ready .empty)
      ++ (List.replicate resp.length (.fe .busy .deliver) ++ []))
  ∧ s.stream.held = resp ++ [] ∧ isValid resp = true

theorem friendly_meets {i : Instr} {cfg : Config} {b : Block} {p resp : List Byte}
    (hr : requestOf cfg b i = some (p, resp.length)) (hn : i = .ad10one → cfg.ad10oneNreq = .two)
    (hb : b.status.busy = false) (hv : isValid resp = true) : Friendly i p resp (friendly i cfg b p.length resp) :=
  ⟨hr, hn, rfl, rfl, hb, rfl, rfl, (List.append_nil _).symm, hv⟩

/-- A command-only op, and the reads of 1 byte, of 0 bytes (`NREQ` = 0), of 2 bytes and of 16 bytes (V87). -/
theorem witness_FriendlyExchangeSendsTheRowAndDecodesIt :
    Friendly .rlyon [254, 48, 0xFE, 0xFF] [0xAA, 0x01, 0x55, 0x00]
      (friendly .rlyon Config.standard { blk0 with relay := 65535 } 4 [0xAA, 0x01, 0x55, 0x00])
    ∧ Friendly .rlyget [254, 44, 8, 0] [0xAA, 0x01, 0x01, 0xAC]
      (friendly .rlyget Config.standard { blk0 with relay := 9 } 4 [0xAA, 0x01, 0x01, 0xAC])
    ∧ Friendly .rawrd [] [0xAA, 0x00, 0xAA] (friendly .rawrd Config.standard blk0 0 [0xAA, 0x00, 0xAA])
    ∧ Friendly .ad10one [254, 255] [0xAA, 0x02, 0x02, 0x00, 0xAE]
      (friendly .ad10one { Config.standard with ad10oneNreq := .two } { blk0 with chan := 106 } 2
        [0xAA, 0x02, 0x02, 0x00, 0xAE])
    ∧ Friendly .ad10all [254, 166] (resp10 ++ [0x5D]) (friendly .ad10all Config.standard blk0 2 (resp10 ++ [0x5D])) :=
  ⟨friendly_meets (by decide) (by decide) rfl (by decide), friendly_meets (by decide) (by decide) rfl (by decide),
    friendly_meets (by decide) (by decide) rfl (by decide), friendly_meets (by decide) (by decide) rfl (by decide),
    friendly_meets (by decide) (by decide) rfl (by decide)⟩

theorem witness_StepRunsTheDecodedOp :
    (hostDo (.wr 0x00 0xFF) blk0).rst = false ∧ (hostDo (.wr 0x00 0xFF) blk0).blk.status.busy = false
    ∧ (hostDo (.wr 0x00 0xFF) blk0).turns = [.host] ∧ (hostDo (.wr 0x00 0xFF) blk0).host = [.wr 0x00 0xFF]
    ∧ decode (BitVec.ofNat 8 0xFF) = .op .sreset ∧ decodeTableWord 8 0xFF = some .sreset := by decide

theorem witness_RefusedWritesSetHosterrOnly :
    (hostDo (.wr 0x06 1) blk0).rst = false ∧ (hostDo (.wr 0x06 1) blk0).turns = [.host]
    ∧ (hostDo (.wr 0x06 1) blk0).host = [.wr 0x06 1] ∧ regOfNumber 0x06 = none
    ∧ regOfNumber 0x301 = some (.txbuf 257) ∧ regAccess (.txbuf 257) = .r
    ∧ regOfNumber 0x00 = some .cmd ∧ regAccess .cmd = .cmd ∧ regOfNumber 0x501 = some (.rxbuf 257)
    ∧ regAccess (.rxbuf 257) = .rwi ∧ (hostDo (.wr 0x00 0) (sending 0 .ready .empty).blk).blk.status.busy = true := by
  decide

theorem witness_OperandWritesStoreModuloWidth :
    (hostDo (.wr 0x08 65536) blk0).rst = false ∧ (hostDo (.wr 0x08 65536) blk0).turns = [.host]
    ∧ (hostDo (.wr 0x08 65536) blk0).host = [.wr 0x08 65536] ∧ (hostDo (.wr 0x09 255) blk0).host = [.wr 0x09 255]
    ∧ (hostDo (.wr 0x0A 256) blk0).host = [.wr 0x0A 256] ∧ (hostDo (.wr 0x0B 0) blk0).host = [.wr 0x0B 0]
    ∧ (hostDo (.wr 0x0C 255) blk0).host = [.wr 0x0C 255] ∧ (hostDo (.wr 0x0D 256) blk0).host = [.wr 0x0D 256]
    ∧ (hostDo (.wr 0x10 511) blk0).host = [.wr 0x10 511] := by
  decide

theorem witness_BufferWritesStoreOneByte :
    (hostDo (.wr 0x1FE 1) blk0).rst = false ∧ (hostDo (.wr 0x1FE 1) blk0).turns = [.host]
    ∧ (hostDo (.wr 0x1FE 1) blk0).host = [.wr (0x100 + 254) 1] ∧ 254 < 255
    ∧ (hostDo (.wr 0x501 1) blk0).host = [.wr (0x400 + 257) 1] ∧ 257 < 258
    ∧ (hostDo (.wr 0x501 1) blk0).blk.status.busy = false ∧ (hostDo (.wr 0x13 258) blk0).host = [.wr 0x13 258] := by decide

/-- HOST can be about to read any number, the ends of each range among them. -/
theorem witness_HostReadsHaveNoSideEffect :
    (∀ n, (hostDo (.rd n) blk0).rst = false ∧ (hostDo (.rd n) blk0).turns = [.host] ∧ (hostDo (.rd n) blk0).host = [.rd n])
    ∧ 0x27 = 0x20 + (7 : Fin 8).val ∧ 0x1FE = 0x100 + 254 ∧ 0x301 = 0x200 + 257 ∧ 0x501 = 0x400 + 257
    ∧ 0x6FE = 0x600 + 254 ∧ 254 < (hostDo (.rd 0x6FE) { blk0 with rlen := 255 }).blk.rlen.toNat
    ∧ (hostDo (.rd 0x501) blk0).blk.phase ≠ .rx
    ∧ (let s := hostDo (.rd 0x402) (waiting 0x14 bnkReq [0xAA, 0x01, 0xA5] 0x50).blk
       s.blk.phase = .rx ∧ 2 < s.blk.rxcnt.toNat)
    ∧ regOfNumber 0x05 = some .phase ∧ FlagsOk Config.standard blk0 :=
  ⟨fun _ => ⟨rfl, rfl, rfl⟩, rfl, rfl, rfl, rfl, rfl, by decide, by decide, by decide, rfl, runInv_idle.flags⟩

theorem witness_HostMovesDoNotTouchAnOpInFlight :
    SeqOk (hostDo (.wr 0x100 0) (sending 3 .ready .empty).blk).blk
    ∧ (hostDo (.wr 0x100 0) (sending 3 .ready .empty).blk).blk.phase ≠ .idle
    ∧ (hostDo (.wr 0x100 0) (sending 3 .ready .empty).blk).rst = false
    ∧ (hostDo (.wr 0x100 0) (sending 3 .ready .empty).blk).turns = [.host]
    ∧ ∃ t, step (hostDo (.wr 0x100 0) (sending 3 .ready .empty).blk) = .next t :=
  ⟨runInv_sending.seq, by decide, rfl, rfl, ⟨_, rfl⟩⟩

theorem witness_OperandsAreWrittenOnlyByHostAndReset :
    (∃ t, step (sending 3 .ready .empty) = .next t ∧ ¬ AtReset t.blk)
    ∧ ∀ rest, (sending 3 .ready .empty).turns ≠ .host :: rest :=
  ⟨⟨_, rfl, fun h => absurd h.control.1 (by decide)⟩, fun _ h => by cases h⟩

theorem witness_HardResetWinsOverEverything :
    (({ sending 3 .ready .empty with rst := true } : State).rst = true
      ∧ ∀ rest, ({ sending 3 .ready .empty with rst := true } : State).turns ≠ .rst false :: rest)
    ∧ ({ sending 3 .ready .empty with turns := [.rst true] } : State).turns = [.rst true] :=
  ⟨⟨rfl, fun _ h => by cases h⟩, rfl⟩

theorem witness_StaleIsSticky :
    (∃ t, step (hostDo (.wr 0x00 0xF0) { blk0 with status := { Status.clear with stale := true } }) = .next t
      ∧ t.blk.status.stale = false)
    ∧ (∃ t, step (sending 3 (.err 1) .empty) = .next t ∧ t.blk.status.stale = true)
    ∧ (sending 3 (.err 1) .empty).blk.status.stale = false :=
  ⟨⟨_, rfl, by decide⟩, ⟨_, rfl, by decide⟩, by decide⟩

theorem witness_HosterrIsSticky :
    (∃ t, step (hostDo (.wr 0x00 0xFF) { blk0 with status := { Status.clear with hosterr := true } }) = .next t
      ∧ t.blk.status.hosterr = false)
    ∧ (∃ t, step (hostDo (.wr 0x06 0) blk0) = .next t ∧ t.blk.status.hosterr = true)
    ∧ blk0.status.hosterr = false :=
  ⟨⟨_, rfl, by decide⟩, ⟨_, rfl, by decide⟩, by decide⟩

theorem witness_StepKeepsMemoryCanonical :
    MemOk (sending 3 .ready .empty) ∧ ∃ t, step (sending 3 .ready .empty) = .next t := ⟨runInv_sending.mem, ⟨_, rfl⟩⟩

theorem witness_StepKeepsTheSequencerConsistent :
    SeqOk (waiting 0x14 bnkReq [0xAA, 0x01, 0xA5] 0x50).blk
    ∧ ∃ t, step (waiting 0x14 bnkReq [0xAA, 0x01, 0xA5] 0x50) = .next t := ⟨runInv_waiting.seq, ⟨_, rfl⟩⟩

theorem witness_StepKeepsTheInvariant :
    RunInv (waiting 0x14 bnkReq [0xAA, 0x01, 0xA5] 0x50)
    ∧ ∃ t, step (waiting 0x14 bnkReq [0xAA, 0x01, 0xA5] 0x50) = .next t := ⟨runInv_waiting, ⟨_, rfl⟩⟩

theorem witness_AfterTimeoutOrIoAPrefixWasSent :
    RunInv (sending 3 (.err 1) .empty) ∧ (sending 3 (.err 1) .empty).blk.phase ≠ .idle
    ∧ ∃ t, step (sending 3 (.err 1) .empty) = .next t ∧ (t.blk.err = .timeout ∨ t.blk.err = .io) :=
  ⟨⟨runInv_sending.mem, runInv_sending.seq, runInv_sending.flags, runInv_sending.trust,
    ⟨runInv_sending.wire.request_valid, runInv_sending.wire.sent_so_far⟩⟩, by decide, ⟨_, rfl, by decide⟩⟩

end Sys2Proof.Tests
end

/-! PROOFS. What every step keeps (spec/10_state.md R24 to R37, spec/60_exceptions.md R241): one lemma per part of the run
invariant and per shared action, then one pass over the cases of a step. -/

namespace Sys2Proof.Machine

/-! ## The canonical form of the memory -/

theorem writeNumber_wf (n v : Nat) {b : Block} (hb : b.mem.wf = true) : (writeNumber n v b).mem.wf = true := by
  cases writeNumber_cases n v b with
  | refused h | operand _ _ _ _ _ _ _ h | rxlen _ _ h => rw [h]; exact hb
  | pbuf i w h => rw [h]; exact wf_writeByte .pbuf i w hb
  | rxbuf i w _ h => rw [h]; exact wf_writeByte .rxbuf i w hb

theorem ExecCase.wf {i : Instr} {b t : Block} (h : ExecCase i b t) (hb : b.mem.wf = true) : t.mem.wf = true := by
  cases h with
  | refused _ _ h | nop _ h | csum _ h | check _ _ h | clrstale _ h => rw [h]; exact hb
  | sreset _ h => rw [h]; exact wf_forgetAll b.mem
  | build _ _ h => rw [h]; exact wf_loadBytes .txbuf _ hb
  | payld _ _ h => rw [h]; exact wf_loadBytes .resbuf _ hb
  | started c n _ _ _ _ hc _ h =>
    rw [h]
    refine wf_loadBytes .txbuf _ ?_
    obtain rfl | ⟨p, _, rfl⟩ := hc
    · exact hb
    · exact wf_loadBytes .pbuf p hb

theorem FinishCase.wf {b t : Block} (h : FinishCase b t) (hb : b.mem.wf = true) : t.mem.wf = true := by
  cases h with
  | invalid _ h | ack _ h | short _ h | other _ _ h => rw [h]; exact hb
  | read _ _ _ h => rw [h]; exact wf_loadBytes .resbuf _ hb

theorem stored_wf (v : Byte) {b : Block} (hb : b.mem.wf = true) : (stored v b).mem.wf = true :=
  wf_writeByte .rxbuf _ v hb

/-- Settles O55, case by case over what a step can do: each operation over the memory keeps its canonical form. -/
theorem stepKeepsMemoryCanonical : Obligations.StepKeepsMemoryCanonical := by
  intro s t hm hstep
  unfold MemOk at hm ⊢
  cases block_cases hstep with
  | same h _ | illegal _ _ _ _ _ _ _ _ h _ | timeout _ _ _ _ _ _ h _ | io _ _ _ _ _ _ _ h _ | sent _ _ _ _ h _ =>
    rw [h]; exact hm
  | reset h _ => rw [h]; exact wf_forgetAll s.blk.mem
  | wrote _ n v _ _ _ _ h _ => rw [h]; exact writeNumber_wf n v hm
  | op _ _ _ _ _ _ _ _ _ h _ => exact h.wf hm
  | received _ _ v _ _ _ h _ => rw [h]; exact stored_wf v hm
  | finished _ _ v _ _ _ h _ => exact h.wf (stored_wf v hm)

/-! ## The block at rest -/

/-- No op is in flight: `PHASE` is `IDLE` and `BUSY` is 0 (R25, R28). -/
def AtRest (b : Block) : Prop := b.phase = .idle ∧ b.status.busy = false

theorem atRest_raise (k : ErrKind) (e : Nat) (b : Block) : AtRest (raise k e b) := ⟨rfl, rfl⟩

theorem atRest_completeOk (b : Block) : AtRest (completeOk b) := ⟨rfl, rfl⟩

theorem atRest_resetBlock (b : Block) : AtRest (resetBlock b) := ⟨rfl, rfl⟩

/-- An accepted op is over, or it has started an exchange (R28, R35). -/
theorem ExecCase.atRest_or_started {i : Instr} {b t : Block} (h : ExecCase i b t) :
    AtRest t ∨ ∃ c n, isExchange i = true ∧ 3 ≤ n ∧ n ≤ 258
      ∧ (c = accept (encode i) b ∨ ∃ p, p.length ≤ 4 ∧ c = setPayload p (accept (encode i) b))
      ∧ c.plen.toNat ≤ 255 ∧ t = startXchg n (doBuild c) := by
  cases h with
  | refused _ _ h => rw [h]; exact .inl (atRest_raise _ _ _)
  | sreset _ h => rw [h]; exact .inl (atRest_resetBlock b)
  | nop _ h | csum _ h | build _ _ h | check _ _ h | payld _ _ h | clrstale _ h =>
    rw [h]; exact .inl (atRest_completeOk _)
  | started c n hi _ h3 h258 hc hp h => exact .inr ⟨c, n, hi, h3, h258, hc, hp, h⟩

theorem FinishCase.atRest {b t : Block} (h : FinishCase b t) : AtRest t := by
  cases h with
  | invalid _ h | short _ h => rw [h]; exact atRest_raise _ _ _
  | ack _ h | read _ _ _ h | other _ _ h => rw [h]; exact atRest_completeOk _

/-! ## The sequencer -/

theorem decode_encode (i : Instr) : decode (encode i) = .op i := by cases i <;> rfl

theorem isExchangeCode_encode (i : Instr) : isExchangeCode (encode i) = isExchange i := by
  simp [isExchangeCode, decode_encode]

theorem SeqOk.of_atRest {b : Block} (h : AtRest b) : SeqOk b := by
  obtain ⟨hp, hb⟩ := h
  constructor <;> simp [hp, hb]

/-- The start of an exchange has a consistent sequencer: the lengths of R132 and R151, the counters 0. -/
theorem seqOk_startXchg {n : Nat} {c : Block} (hx : isExchangeCode c.cmd = true)
    (hq : c.status.done = false ∧ c.status.ok = false ∧ c.err = .none ∧ c.errinfo = 0)
    (hp : c.plen.toNat ≤ 255) (h3 : 3 ≤ n) (h258 : n ≤ 258) : SeqOk (startXchg n (doBuild c)) := by
  have htx : (startXchg n (doBuild c)).txlen.toNat = c.plen.toNat + 3 := toNat_len (by omega)
  have hrx : (startXchg n (doBuild c)).rxlen.toNat = n := toNat_len (by omega)
  obtain ⟨hd, ho, he, hi⟩ := hq
  constructor
  case busy_iff => simp
  case flying_cmd => exact fun _ => hx
  case flying_quiet => exact fun _ => ⟨hd, ho, he, hi, rfl⟩
  case flying_lens => exact fun _ => by omega
  case tx_counts => exact fun _ => ⟨by rw [htx]; simp, by simp⟩
  case rx_counts => intro h; cases h

theorem ExecCase.seqOk {i : Instr} {b t : Block} (h : ExecCase i b t) : SeqOk t := by
  obtain h | ⟨c, n, hi, h3, h258, hc, hp, rfl⟩ := h.atRest_or_started
  · exact .of_atRest h
  · refine seqOk_startXchg ?_ ?_ hp h3 h258
    · obtain rfl | ⟨p, _, rfl⟩ := hc <;> simp [isExchangeCode_encode, hi]
    · obtain rfl | ⟨p, _, rfl⟩ := hc <;> simp

/-- The sequencer's consistency depends on nothing but the fields compared here. -/
theorem SeqOk.congr {b t : Block} (h : SeqOk b) (hp : t.phase = b.phase)
    (hs : t.status = { b.status with hosterr := t.status.hosterr }) (hc : t.cmd = b.cmd) (he : t.err = b.err)
    (hi : t.errinfo = b.errinfo) (hv : t.vflags = b.vflags) (hlt : t.txlen = b.txlen) (hlr : t.rxlen = b.rxlen)
    (hct : t.txcnt = b.txcnt) (hcr : t.rxcnt = b.rxcnt) : SeqOk t := by
  constructor <;> rw [hp]
  case busy_iff => rw [hs]; exact h.busy_iff
  case flying_cmd => rw [hc]; exact h.flying_cmd
  case flying_quiet => rw [hs, he, hi, hv]; exact h.flying_quiet
  case flying_lens => rw [hlt, hlr]; exact h.flying_lens
  case tx_counts => rw [hct, hlt, hcr]; exact h.tx_counts
  case rx_counts => rw [hct, hlt, hcr, hlr]; exact h.rx_counts

theorem SeqOk.writeNumber {b : Block} (h : SeqOk b) (n v : Nat) : SeqOk (writeNumber n v b) := by
  cases writeNumber_cases n v b with
  | refused e | operand _ _ _ _ _ _ _ e | pbuf _ _ e =>
    rw [e]; exact h.congr rfl rfl rfl rfl rfl rfl rfl rfl rfl rfl
  | rxlen _ hb e | rxbuf _ _ hb e => rw [e]; exact .of_atRest ⟨h.idle hb, hb⟩

/-- A byte sent in `TX` (R152). -/
theorem SeqOk.txAdvance {b : Block} (h : SeqOk b) (hp : b.phase = .tx) : SeqOk (txAdvance b) := by
  have hf : b.phase ≠ .idle := by simp [hp]
  have hbusy := h.busy_iff.2 hf
  obtain ⟨h3t, h258t, h3r, h258r⟩ := h.flying_lens hf
  obtain ⟨hlt, hz⟩ := h.tx_counts hp
  have hsucc : (b.txcnt + 1).toNat = b.txcnt.toNat + 1 := len_succ (by omega)
  constructor
  case busy_iff => simp [hbusy, hp]; split <;> simp
  case flying_cmd => exact fun _ => h.flying_cmd hf
  case flying_quiet => exact fun _ => h.flying_quiet hf
  case flying_lens => exact fun _ => h.flying_lens hf
  case tx_counts =>
    intro ht
    have hne : b.txcnt + 1 ≠ b.txlen := fun e => by rw [txAdvance_phase, if_pos e] at ht; cases ht
    have hne' : (b.txcnt + 1).toNat ≠ b.txlen.toNat := fun e => hne (BitVec.eq_of_toNat_eq e)
    exact ⟨by rw [txAdvance_txcnt, txAdvance_txlen]; omega, hz⟩
  case rx_counts =>
    intro hr
    refine ⟨?_, by rw [txAdvance_rxcnt, txAdvance_rxlen]; omega⟩
    by_contra hne
    rw [txAdvance_phase, if_neg (by exact hne), hp] at hr
    cases hr

/-- A byte received in `RX` that is not the last (R153). -/
theorem SeqOk.stored {b : Block} (h : SeqOk b) (hp : b.phase = .rx) (hl : b.rxcnt + 1 ≠ b.rxlen) (v : Byte) :
    SeqOk (stored v b) := by
  have hf : b.phase ≠ .idle := by simp [hp]
  obtain ⟨_, _, _, h258⟩ := h.flying_lens hf
  obtain ⟨htx, hlt⟩ := h.rx_counts hp
  have hsucc : (b.rxcnt + 1).toNat = b.rxcnt.toNat + 1 := len_succ (by omega)
  have hne : (b.rxcnt + 1).toNat ≠ b.rxlen.toNat := fun e => hl (BitVec.eq_of_toNat_eq e)
  constructor
  case busy_iff => exact h.busy_iff
  case flying_cmd => exact h.flying_cmd
  case flying_quiet => exact h.flying_quiet
  case flying_lens => exact h.flying_lens
  case tx_counts => intro ht; exact absurd (hp.symm.trans ht) (by decide)
  case rx_counts => exact fun _ => ⟨htx, show (b.rxcnt + 1).toNat < b.rxlen.toNat by omega⟩

theorem step_seqOk {s t : State} (hs : SeqOk s.blk) (hstep : step s = .next t) : SeqOk t.blk := by
  cases block_cases hstep with
  | same h _ => rw [h]; exact hs
  | reset h _ => rw [h]; exact .of_atRest (atRest_resetBlock _)
  | wrote _ n v _ _ _ _ h _ => rw [h]; exact hs.writeNumber n v
  | illegal _ _ _ _ _ _ _ _ h _ | timeout _ _ _ _ _ _ h _ | io _ _ _ _ _ _ _ h _ =>
    rw [h]; exact .of_atRest (atRest_raise _ _ _)
  | op _ _ _ _ _ _ _ _ _ h _ => exact h.seqOk
  | sent _ _ _ hp h _ => rw [h]; exact hs.txAdvance hp
  | received _ _ v _ hp hl h _ => rw [h]; exact hs.stored hp hl v
  | finished _ _ _ _ _ _ h _ => exact .of_atRest h.atRest

/-- Settles O56: an op that ends leaves the block at rest, and a start, a byte sent and a byte received keep the counters
inside their lengths. -/
theorem stepKeepsTheSequencerConsistent : Obligations.StepKeepsTheSequencerConsistent :=
  fun _ _ => step_seqOk

end Sys2Proof.Machine

/-! PROOFS. One op, one outcome; trust in `VALID`; the wire; and with them the whole run invariant (spec/10_state.md R29 to R37,
spec/20_memory.md R77, spec/60_exceptions.md R241). -/

namespace Sys2Proof.Machine

/-! ## One op, one outcome -/

/-- The outcome's consistency depends on nothing but the four flags, `ERR` and `ERRINFO`. -/
theorem FlagsOk.congr {cfg : Config} {b t : Block} (h : FlagsOk cfg b)
    (hs : t.status = { b.status with hosterr := t.status.hosterr }) (he : t.err = b.err) (hi : t.errinfo = b.errinfo) :
    FlagsOk cfg t := by
  constructor
  case not_both => rw [hs]; exact h.not_both
  case outcome => rw [hs, he]; exact h.outcome
  case no_outcome => rw [hs, he]; exact h.no_outcome
  case info_only_io => rw [he, hi]; exact h.info_only_io
  case info_fits => rw [hi]; exact h.info_fits

theorem flagsOk_raise {cfg : Config} {k : ErrKind} {e : Nat} (b : Block) (hk : k ≠ .none) (he : e < 2 ^ cfg.ioErrW) :
    FlagsOk cfg (raise k e b) := by
  constructor
  case info_only_io => exact fun hn => if_neg hn
  case info_fits => rw [raise_errinfo]; split; exacts [he, Nat.two_pow_pos _]
  all_goals simp [hk]

theorem flagsOk_completeOk {cfg : Config} {b : Block} (he : b.err = .none) (hi : b.errinfo = 0) :
    FlagsOk cfg (completeOk b) := by
  constructor <;> simp [he, hi]

theorem flagsOk_resetBlock (cfg : Config) (b : Block) : FlagsOk cfg (resetBlock b) := by
  constructor <;> simp [resetBlock, Block.resetWith, Status.clear]

/-- A block with nothing recorded yet (R29, R35). -/
theorem flagsOk_quiet (cfg : Config) {b : Block} (hd : b.status.done = false) (ho : b.status.ok = false)
    (he : b.err = .none) (hi : b.errinfo = 0) : FlagsOk cfg b := by
  constructor <;> simp [hd, ho, he, hi]

theorem ExecCase.flagsOk {i : Instr} {b t : Block} (cfg : Config) (h : ExecCase i b t) : FlagsOk cfg t := by
  cases h with
  | refused _ _ h => rw [h]; exact flagsOk_raise _ (by decide) (Nat.two_pow_pos _)
  | sreset _ h => rw [h]; exact flagsOk_resetBlock cfg b
  | nop _ h | csum _ h | build _ _ h | check _ _ h | payld _ _ h | clrstale _ h =>
    rw [h]; exact flagsOk_completeOk rfl rfl
  | started c n _ _ _ _ hc _ h =>
    rw [h]
    obtain rfl | ⟨p, _, rfl⟩ := hc
    · exact flagsOk_quiet cfg rfl rfl rfl rfl
    · exact flagsOk_quiet cfg rfl rfl rfl rfl

/-- The finish action of an op that has recorded nothing yet. -/
theorem FinishCase.flagsOk {b t : Block} (cfg : Config) (h : FinishCase b t) (he : b.err = .none) (hi : b.errinfo = 0) :
    FlagsOk cfg t := by
  cases h with
  | invalid _ h | short _ h => rw [h]; exact flagsOk_raise _ (by decide) (Nat.two_pow_pos _)
  | ack _ h | read _ _ _ h | other _ _ h => rw [h]; exact flagsOk_completeOk he hi

theorem step_flagsOk {s t : State} (hs : SeqOk s.blk) (hf : FlagsOk s.cfg s.blk) (hstep : step s = .next t) :
    FlagsOk t.cfg t.blk := by
  rw [step_cfg hstep]
  cases block_cases hstep with
  | same h _ => rw [h]; exact hf
  | reset h _ => rw [h]; exact flagsOk_resetBlock _ _
  | wrote _ n v _ _ _ _ h _ =>
    rw [h]
    obtain ⟨_, hst, he, hi, _⟩ := writeNumber_frame n v s.blk
    exact hf.congr hst he hi
  | illegal _ _ _ _ _ _ _ _ h _ | timeout _ _ _ _ _ _ h _ => rw [h]; exact flagsOk_raise _ (by decide) (Nat.two_pow_pos _)
  | io _ _ _ e _ _ _ h _ => rw [h]; exact flagsOk_raise _ (by decide) (Nat.mod_lt _ (Nat.two_pow_pos _))
  | op _ _ _ _ _ _ _ _ _ h _ => exact h.flagsOk _
  | sent _ _ _ _ h _ | received _ _ _ _ _ _ h _ => rw [h]; exact hf.congr rfl rfl rfl
  | finished _ _ _ _ hp _ h _ =>
    obtain ⟨_, _, he, hi, _⟩ := hs.flying_quiet (by simp [hp])
    exact h.flagsOk _ he hi

/-! ## Trust in `VALID` -/

theorem responseBytes_congr {b t : Block} (hl : t.rxlen = b.rxlen)
    (hm : ∀ i, readByte t.mem .rxbuf i = readByte b.mem .rxbuf i) : responseBytes t = responseBytes b := by
  unfold responseBytes
  rw [hl]
  exact readBytes_congr fun i _ => hm _

/-- Trust in `VALID` depends on nothing but `VFLAGS`, `RXLEN` and `RXBUF`. -/
theorem TrustOk.congr {b t : Block} (h : TrustOk b) (hv : t.vflags = b.vflags) (hl : t.rxlen = b.rxlen)
    (hm : ∀ i, readByte t.mem .rxbuf i = readByte b.mem .rxbuf i) : TrustOk t := by
  constructor <;> rw [hv]
  case valid_now => rw [responseBytes_congr hl hm]; exact h.valid_now
  case valid_all => exact h.valid_all

theorem TrustOk.of_clear {b : Block} (h : b.vflags = VFlags.clear) : TrustOk b := by
  constructor <;> simp [h, VFlags.clear]

/-- Flags that are those of the response speak of it (R135). -/
theorem TrustOk.of_checked {b : Block} (h : b.vflags = checkFlags (responseBytes b)) : TrustOk b := by
  constructor <;> rw [h]
  case valid_now => rw [checkFlags_valid]; exact id
  case valid_all => exact checkFlags_valid_all _

theorem TrustOk.writeNumber {b : Block} (h : TrustOk b) (n v : Nat) : TrustOk (writeNumber n v b) := by
  cases writeNumber_cases n v b with
  | refused e | operand _ _ _ _ _ _ _ e => rw [e]; exact h.congr rfl rfl fun _ => rfl
  | pbuf _ _ e => rw [e]; exact h.congr rfl rfl fun _ => readByte_writeByte_other _ _ (by simp)
  | rxlen _ _ e | rxbuf _ _ _ e => rw [e]; exact .of_clear rfl

theorem ExecCase.trustOk {i : Instr} {b t : Block} (h : ExecCase i b t) (hb : TrustOk b) : TrustOk t := by
  cases h with
  | refused v hv h =>
    rw [h]
    obtain rfl | ⟨_, rfl⟩ := hv
    · exact hb.congr rfl rfl fun _ => rfl
    · exact .of_clear rfl
  | sreset _ h | started _ _ _ _ _ _ _ _ h => rw [h]; exact .of_clear rfl
  | nop _ h | csum _ h | clrstale _ h => rw [h]; exact hb.congr rfl rfl fun _ => rfl
  | build _ _ h =>
    rw [h]; exact hb.congr rfl rfl fun _ => readByte_loadBytes_other (b := .txbuf) (c := .rxbuf) _ _ _ (by decide)
  | payld _ _ h =>
    rw [h]; exact hb.congr rfl rfl fun _ => readByte_loadBytes_other (b := .resbuf) (c := .rxbuf) _ _ _ (by decide)
  | check _ _ h => rw [h]; exact .of_checked rfl

/-- The finish action leaves the flags of the response it saw, whatever the verdict (R154). -/
theorem FinishCase.vflags {b t : Block} (h : FinishCase b t) : t.vflags = checkFlags (responseBytes b) := by
  cases h with
  | invalid _ h | short _ h | ack _ h | read _ _ _ h | other _ _ h => rw [h]; rfl

theorem FinishCase.responseBytes {b t : Block} (h : FinishCase b t) :
    Machine.responseBytes t = Machine.responseBytes b := by
  cases h with
  | invalid _ h | short _ h | ack _ h | other _ _ h => rw [h]; rfl
  | read _ _ _ h =>
    rw [h]
    exact responseBytes_congr rfl fun _ => readByte_loadBytes_other (b := .resbuf) (c := .rxbuf) _ _ _ (by decide)

theorem FinishCase.trustOk {b t : Block} (h : FinishCase b t) : TrustOk t :=
  .of_checked (by rw [h.vflags, h.responseBytes])

theorem step_trustOk {s t : State} (hs : SeqOk s.blk) (hv : TrustOk s.blk) (hstep : step s = .next t) :
    TrustOk t.blk := by
  cases block_cases hstep with
  | same h _ => rw [h]; exact hv
  | reset h _ => rw [h]; exact .of_clear rfl
  | wrote _ n v _ _ _ _ h _ => rw [h]; exact hv.writeNumber n v
  | illegal _ _ _ _ _ _ _ _ h _ | timeout _ _ _ _ _ _ h _ | io _ _ _ _ _ _ _ h _ | sent _ _ _ _ h _ =>
    rw [h]; exact hv.congr rfl rfl fun _ => rfl
  | op _ _ _ _ _ _ _ _ _ h _ => exact h.trustOk hv
  | received _ _ v _ hp _ h _ =>
    obtain ⟨_, _, _, _, hclear⟩ := hs.flying_quiet (by simp [hp])
    rw [h]
    exact .of_clear hclear
  | finished _ _ _ _ _ _ h _ => exact h.trustOk

/-! ## The wire -/

/-- A frame of at most 255 payload bytes is a valid packet (R100). -/
theorem isValid_frame {p : List Byte} (h : p.length ≤ 255) : isValid (frame p) = true := by
  have hhead : (frame p).getD 0 0 = handshake := rfl
  have hlast : (frame p).length - 1 = (framePre p).length := by rw [frame_length, framePre_length]; omega
  have htake : (frame p).take (framePre p).length = framePre p := List.take_left' rfl
  have hget : (frame p).getD (framePre p).length 0 = csum8 (framePre p) := by
    simp [frame, List.getD_eq_getElem?_getD]
  have hlen : ((frame p).getD 1 0).toNat = p.length := by
    show (BitVec.ofNat 8 p.length).toNat = p.length
    rw [BitVec.toNat_ofNat, Nat.mod_eq_of_lt (by omega)]
  unfold isValid
  rw [hhead, hlast, htake, hget, hlen, frame_length]
  simp

theorem startXchg_requestBytes {n : Nat} {c : Block} (hp : c.plen.toNat ≤ 255) :
    requestBytes (startXchg n (doBuild c)) = frame (payloadBytes c) := by
  unfold requestBytes
  rw [startXchg_txlen, startXchg_mem, doBuild_txlen, toNat_len (by omega), doBuild_request hp]

theorem WireOk.of_idle {s : State} (h : s.blk.phase = .idle) : WireOk s := by
  constructor <;> exact fun hf => absurd h hf

/-- The wire's consistency depends on nothing but the request in `TXBUF`, `TXCNT` and the bytes sent; ending an op keeps it. -/
theorem WireOk.congr {s t : State} (h : WireOk s) (hf : t.blk.phase ≠ .idle → s.blk.phase ≠ .idle)
    (hl : t.blk.txlen = s.blk.txlen) (hc : t.blk.txcnt = s.blk.txcnt)
    (hm : ∀ i, readByte t.blk.mem .txbuf i = readByte s.blk.mem .txbuf i) (hs : t.stream.sent = s.stream.sent) :
    WireOk t := by
  have hb : ∀ n, readBytes t.blk.mem .txbuf 0 n = readBytes s.blk.mem .txbuf 0 n :=
    fun _ => readBytes_congr fun _ _ => hm _
  constructor <;> intro ht
  case request_valid => unfold requestBytes; rw [hl, hb]; exact h.request_valid (hf ht)
  case sent_so_far => rw [hc, hb, hs]; exact h.sent_so_far (hf ht)

theorem ExecCase.wireOk {i : Instr} {b : Block} {t : State} (h : ExecCase i b t.blk) : WireOk t := by
  obtain hrest | ⟨c, n, _, _, _, _, hp, ht⟩ := h.atRest_or_started
  · exact .of_idle hrest.1
  · constructor <;> intro _ <;> rw [ht]
    case request_valid =>
      rw [startXchg_requestBytes hp]
      exact isValid_frame (by simpa [payloadBytes] using hp)
    case sent_so_far => exact List.nil_suffix

/-- A byte sent: the request stands, and what was sent last grows by its next byte (R67, R152). -/
theorem WireOk.sent {s t : State} (hw : WireOk s) (hs : SeqOk s.blk) (hp : s.blk.phase = .tx)
    (h : t.blk = txAdvance s.blk)
    (hsent : t.stream.sent = s.stream.sent ++ [readByte s.blk.mem .txbuf s.blk.txcnt.toNat]) : WireOk t := by
  have hf : s.blk.phase ≠ .idle := by simp [hp]
  obtain ⟨_, h258, _⟩ := hs.flying_lens hf
  obtain ⟨hlt, _⟩ := hs.tx_counts hp
  constructor <;> intro _
  case request_valid => rw [h]; exact hw.request_valid hf
  case sent_so_far =>
    rw [hsent, h, txAdvance_txcnt, txAdvance_mem, len_succ (by omega), readBytes_succ, Nat.zero_add]
    exact (List.suffix_append_inj_of_length_eq rfl).2 ⟨hw.sent_so_far hf, rfl⟩

theorem step_wireOk {s t : State} (hs : SeqOk s.blk) (hw : WireOk s) (hstep : step s = .next t) : WireOk t := by
  cases block_cases hstep with
  | same h hsent => exact hw.congr (by simp [h]) (by rw [h]) (by rw [h]) (by simp [h]) hsent
  | reset h _ => exact .of_idle (by rw [h]; rfl)
  | wrote _ n v _ _ _ _ h hsent =>
    obtain ⟨hp, _, _, _, _, _, _, _, hct, _, hlt, hm⟩ := writeNumber_frame n v s.blk
    exact hw.congr (by rw [h, hp]; exact id) (by rw [h, hlt]) (by rw [h, hct])
      (fun i => by rw [h]; exact hm .txbuf i (by decide) (by decide)) hsent
  | illegal _ _ _ _ _ _ _ _ h _ | timeout _ _ _ _ _ _ h _ | io _ _ _ _ _ _ _ h _ => exact .of_idle (by rw [h]; rfl)
  | op _ _ _ _ _ _ _ _ _ h _ => exact h.wireOk
  | sent _ _ _ hp h hsent => exact hw.sent hs hp h hsent
  | received _ _ v _ _ _ h hsent =>
    exact hw.congr (by rw [h]; exact id) (by rw [h]; rfl) (by rw [h]; rfl)
      (fun i => by rw [h]; exact readByte_writeByte_other _ _ (by simp)) hsent
  | finished _ _ _ _ _ _ h _ => exact .of_idle h.atRest.1

/-! ## The whole invariant -/

/-- Settles O57, part by part; the outcome, the trust and the wire each need the sequencer's part besides their own. -/
theorem stepKeepsTheInvariant : Obligations.StepKeepsTheInvariant := by
  intro s t ⟨hm, hs, hf, hv, hw⟩ hstep
  exact ⟨stepKeepsMemoryCanonical s t hm hstep, step_seqOk hs hstep, step_flagsOk hs hf hstep,
    step_trustOk hs hv hstep, step_wireOk hs hw hstep⟩

/-- Settles O58: in the reset state no op is in flight and no flag is set. -/
theorem resetMeetsTheInvariant : Obligations.ResetMeetsTheInvariant := fun c =>
  have hrest : AtRest State.reset.blk := ⟨rfl, rfl⟩
  ⟨rfl, .of_atRest hrest, flagsOk_quiet c rfl rfl rfl rfl, .of_clear rfl, .of_idle hrest.1⟩

end Sys2Proof.Machine

/-! PROOFS. HOST's register space (spec/10_state.md R32 to R43, spec/20_memory.md R74): numbers and names, what each write
stores, what a read returns. -/

namespace Sys2Proof.Machine

/-! ## Register numbers -/

theorem regOfNumber_regNumber (r : Reg) : regOfNumber (regNumber r) = some r := by
  cases r with
  | ad i | pbuf i | txbuf i | rxbuf i | resbuf i =>
    obtain ⟨k, hk⟩ := i
    simp only [regNumber, regOfNumber]
    grind
  | _ => rfl

/-- One row of the register map that is a single number. -/
theorem regNumber_of_row {n k : Nat} {x r : Reg} {o : Option Reg} (hx : regNumber x = k)
    (ho : o = some r → regNumber r = n) : (if n = k then some x else o) = some r → regNumber r = n := by
  intro h
  split at h
  · next hk => cases h; rw [hx, hk]
  · exact ho h

/-- One row of the register map that is a range of numbers. -/
theorem regNumber_of_range {n : Nat} {p : Prop} [Decidable p] {f : p → Reg} {r : Reg} {o : Option Reg}
    (hf : ∀ h : p, regNumber (f h) = n) (ho : o = some r → regNumber r = n) :
    (if h : p then some (f h) else o) = some r → regNumber r = n := by
  intro h
  split at h
  · next hp => cases h; exact hf hp
  · exact ho h

theorem regNumber_of_regOfNumber {n : Nat} {r : Reg} : regOfNumber n = some r → regNumber r = n := by
  unfold regOfNumber
  iterate 19 refine regNumber_of_row rfl ?_
  iterate 5 refine regNumber_of_range (fun h => by simp only [regNumber]; omega) ?_
  simp

theorem mappedNumber_regNumber (r : Reg) : mappedNumber (regNumber r) = true := by
  cases r with
  | ad i | pbuf i | txbuf i | rxbuf i | resbuf i =>
    have := i.isLt
    simp [mappedNumber, regNumber]
    omega
  | _ => rfl

/-- Every mapped number is some register's (R34). -/
theorem exists_regNumber {n : Nat} (h : mappedNumber n = true) : ∃ r, regNumber r = n := by
  simp only [mappedNumber, Bool.or_eq_true, decide_eq_true_eq, or_assoc] at h
  rcases h with h | ⟨h, h'⟩ | ⟨h, h'⟩ | ⟨h, h'⟩ | ⟨h, h'⟩ | ⟨h, h'⟩ | ⟨h, h'⟩ | ⟨h, h'⟩ | ⟨h, h'⟩
  · interval_cases n
    exacts [⟨.cmd, rfl⟩, ⟨.status, rfl⟩, ⟨.err, rfl⟩, ⟨.errinfo, rfl⟩, ⟨.vflags, rfl⟩, ⟨.phase, rfl⟩]
  · interval_cases n
    exacts [⟨.relay, rfl⟩, ⟨.bank, rfl⟩, ⟨.bstat, rfl⟩, ⟨.index, rfl⟩, ⟨.chan, rfl⟩, ⟨.nreq, rfl⟩]
  · interval_cases n
    exacts [⟨.plen, rfl⟩, ⟨.txlen, rfl⟩, ⟨.txcnt, rfl⟩, ⟨.rxlen, rfl⟩, ⟨.rxcnt, rfl⟩]
  · interval_cases n
    exacts [⟨.rlen, rfl⟩, ⟨.res, rfl⟩]
  · exact ⟨.ad ⟨n - 0x20, by omega⟩, Nat.add_sub_of_le h⟩
  · exact ⟨.pbuf ⟨n - 0x100, by omega⟩, Nat.add_sub_of_le h⟩
  · exact ⟨.txbuf ⟨n - 0x200, by omega⟩, Nat.add_sub_of_le h⟩
  · exact ⟨.rxbuf ⟨n - 0x400, by omega⟩, Nat.add_sub_of_le h⟩
  · exact ⟨.resbuf ⟨n - 0x600, by omega⟩, Nat.add_sub_of_le h⟩

theorem regOfNumber_isSome (n : Nat) : (regOfNumber n).isSome = mappedNumber n := by
  rw [Bool.eq_iff_iff]
  constructor
  · intro h
    obtain ⟨r, hr⟩ := Option.isSome_iff_exists.1 h
    rw [← regNumber_of_regOfNumber hr]
    exact mappedNumber_regNumber r
  · intro h
    obtain ⟨r, rfl⟩ := exists_regNumber h
    rw [regOfNumber_regNumber]
    rfl

/-- Settles O3: the map is inverted row by row, and every mapped number is some register's. -/
theorem registerNumbersRoundTrip : Obligations.RegisterNumbersRoundTrip :=
  ⟨regOfNumber_regNumber, fun _ _ => regNumber_of_regOfNumber, regOfNumber_isSome⟩

end Sys2Proof.Machine

namespace Sys2Proof.Machine

/-! ## HOST's writes -/

theorem writeNumber_regNumber (r : Reg) (v : Nat) (b : Block) : writeNumber (regNumber r) v b = writeReg r v b := by
  simp [writeNumber, regOfNumber_regNumber]

/-- HOST's write of a register other than `CMD`, by name. -/
theorem step_writeReg {s : State} {r : Reg} {v : Nat} {h : List HostOp} {rest : List Turn} (hr : s.rst = false)
    (ht : s.turns = .host :: rest) (hh : s.host = .wr (regNumber r) v :: h) (hc : r ≠ .cmd) :
    step s = .next { s with turns := rest, host := h, blk := writeReg r v s.blk } := by
  rw [step_wrote hr ht hh (startsOp_other (by simp [regOfNumber_regNumber, hc])), writeNumber_regNumber]

theorem writeReg_readOnly {r : Reg} (h : readOnly r) (v : Nat) (b : Block) : writeReg r v b = hostError b := by
  cases r with
  | cmd | relay | bank | bstat | index | chan | nreq | plen | rxlen | pbuf _ | rxbuf _ => cases h
  | _ => rfl

theorem writeReg_busy {r : Reg} {b : Block} (h : regAccess r = .cmd ∨ regAccess r = .rwi) (hb : b.status.busy = true)
    (v : Nat) : writeReg r v b = hostError b := by
  cases r with
  | cmd => rfl
  | rxlen | rxbuf _ => exact unlessBusy_busy hb
  | _ => simp [regAccess] at h

/-- Settles O43: each refused write starts no op and is `hostError`. -/
theorem refusedWritesSetHosterrOnly : Obligations.RefusedWritesSetHosterrOnly := by
  intro s n v h rest hr ht hh hcase
  suffices hw : startsOp n s.blk = false ∧ writeNumber n v s.blk = hostError s.blk by
    rw [step_wrote hr ht hh hw.1, hw.2]; rfl
  rcases hcase with hn | ⟨r, hn, hro⟩ | ⟨r, hn, hacc, hb⟩
  · exact ⟨startsOp_other (by simp [hn]), by simp [writeNumber, hn]⟩
  · have hc : r ≠ .cmd := by rintro rfl; cases hro
    exact ⟨startsOp_other (by simp [hn, hc]), by simp [writeNumber, hn, writeReg_readOnly hro]⟩
  · exact ⟨by simp [startsOp, hb], by simp [writeNumber, hn, writeReg_busy hacc hb]⟩

/-- Taking a value modulo 2^width before it is stored changes nothing (R34). -/
theorem ofNat_mod_two_pow (w v : Nat) : BitVec.ofNat w (v % 2 ^ w) = BitVec.ofNat w v :=
  BitVec.eq_of_toNat_eq (by simp)

/-- Settles O44: each operand register is written by its own number. -/
theorem operandWritesStoreModuloWidth : Obligations.OperandWritesStoreModuloWidth := by
  intro s n v h rest hr ht hh
  simp only [ofNat_mod_two_pow]
  refine ⟨?_, ?_, ?_, ?_, ?_, ?_, ?_⟩ <;> intro hn <;> subst hn
  · exact step_writeReg (r := .relay) hr ht hh (by decide)
  · exact step_writeReg (r := .bank) hr ht hh (by decide)
  · exact step_writeReg (r := .bstat) hr ht hh (by decide)
  · exact step_writeReg (r := .index) hr ht hh (by decide)
  · exact step_writeReg (r := .chan) hr ht hh (by decide)
  · exact step_writeReg (r := .nreq) hr ht hh (by decide)
  · exact step_writeReg (r := .plen) hr ht hh (by decide)

/-- Settles O45: the byte written is read back, and every other byte is as it was. -/
theorem bufferWritesStoreOneByte : Obligations.BufferWritesStoreOneByte := by
  intro s v h rest k hr ht
  refine ⟨fun hh hk => ?_, fun hh hk hb => ?_, fun hh hb => ?_⟩
  · refine ⟨writeByte s.blk.mem .pbuf k (BitVec.ofNat 8 v), ?_, readByte_writeByte_same _ .pbuf _ hk,
      fun _ _ => readByte_writeByte_other _ _⟩
    exact step_writeReg (r := .pbuf ⟨k, hk⟩) hr ht hh (by simp)
  · refine ⟨writeByte s.blk.mem .rxbuf k (BitVec.ofNat 8 v), ?_, readByte_writeByte_same _ .rxbuf _ hk,
      fun _ _ => readByte_writeByte_other _ _⟩
    rw [step_writeReg (r := .rxbuf ⟨k, hk⟩) hr ht hh (by simp), writeReg, unlessBusy_idle hb]
  · rw [step_writeReg (r := .rxlen) hr ht hh (by decide), writeReg, unlessBusy_idle hb]

/-! ## Flags and codes as numbers -/

theorem bitAt_eq (b : Bool) (k : Nat) : bitAt b k = 2 ^ k * b.toNat := by cases b <;> simp [bitAt]

theorem statusByte_eq (st : Status) :
    statusByte st = st.busy.toNat + 2 * st.done.toNat + 4 * st.ok.toNat + 8 * st.stale.toNat + 16 * st.hosterr.toNat := by
  simp [statusByte, bitAt_eq]

theorem vflagsByte_eq (v : VFlags) :
    vflagsByte v = v.size.toNat + 2 * v.hs.toNat + 4 * v.len.toNat + 8 * v.chk.toNat + 16 * v.valid.toNat := by
  simp [vflagsByte, bitAt_eq]

/-- Five flags at bits 0 to 4 are read back bit by bit, and bits from 5 on are 0 (R27, R33). -/
theorem fiveFlags_testBit (a b c d e : Bool) :
    bitAt a 0 + bitAt b 1 + bitAt c 2 + bitAt d 3 + bitAt e 4 < 32
    ∧ (bitAt a 0 + bitAt b 1 + bitAt c 2 + bitAt d 3 + bitAt e 4).testBit 0 = a
    ∧ (bitAt a 0 + bitAt b 1 + bitAt c 2 + bitAt d 3 + bitAt e 4).testBit 1 = b
    ∧ (bitAt a 0 + bitAt b 1 + bitAt c 2 + bitAt d 3 + bitAt e 4).testBit 2 = c
    ∧ (bitAt a 0 + bitAt b 1 + bitAt c 2 + bitAt d 3 + bitAt e 4).testBit 3 = d
    ∧ (bitAt a 0 + bitAt b 1 + bitAt c 2 + bitAt d 3 + bitAt e 4).testBit 4 = e := by
  revert a b c d e
  decide

/-- Settles O47: `STATUS` and `VFLAGS` are each five flags at bits 0 to 4. -/
theorem flagRegistersReadBitByBit : Obligations.FlagRegistersReadBitByBit := by
  refine ⟨fun s => ?_, rfl, rfl, rfl, rfl, rfl, rfl, rfl, rfl, rfl⟩
  obtain ⟨hs, hs0, hs1, hs2, hs3, hs4⟩ := fiveFlags_testBit s.blk.status.busy s.blk.status.done s.blk.status.ok
    s.blk.status.stale s.blk.status.hosterr
  have hv := fiveFlags_testBit s.blk.vflags.size s.blk.vflags.hs s.blk.vflags.len s.blk.vflags.chk s.blk.vflags.valid
  exact ⟨hs, hs0, hs1, hs2, hs3, hs4, hv⟩

/-! ## HOST's reads -/

theorem step_read {s : State} {n : Nat} {h : List HostOp} {rest : List Turn} (hr : s.rst = false)
    (ht : s.turns = .host :: rest) (hh : s.host = .rd n :: h) :
    step s = .next (hostRead n { s with turns := rest, host := h }) :=
  step_ended (by rw [nextAction_host hr ht]; simp [hostMove, hh])

theorem readNumber_regNumber (s : State) (r : Reg) : readNumber s (regNumber r) = readReg s r := by
  simp [readNumber, regOfNumber_regNumber]

theorem unspecifiedByte_lt (s : State) : unspecifiedByte s < 2 ^ 8 := Nat.mod_lt _ (by decide)

theorem readRxbuf_lt (s : State) (i : Nat) : readRxbuf s i < 2 ^ 8 := by
  unfold readRxbuf
  split
  · exact unspecifiedByte_lt s
  · exact BitVec.isLt _

theorem readResbuf_lt (s : State) (i : Nat) : readResbuf s i < 2 ^ 8 := by
  unfold readResbuf
  split
  · exact unspecifiedByte_lt s
  · exact BitVec.isLt _

/-- A register's value fits its width (R34). -/
theorem readReg_lt {s : State} (h : FlagsOk s.cfg s.blk) (r : Reg) : readReg s r < 2 ^ regWidth s.cfg r := by
  cases r with
  | cmd | relay | bank | bstat | index | chan | nreq | plen | txlen | txcnt | rxlen | rxcnt | rlen | res
  | ad _ | pbuf _ | txbuf _ => exact BitVec.isLt _
  | status => exact Nat.lt_trans (fiveFlags_testBit _ _ _ _ _).1 (show 32 < 2 ^ 8 by decide)
  | vflags => exact Nat.lt_trans (fiveFlags_testBit _ _ _ _ _).1 (show 32 < 2 ^ 8 by decide)
  | err => show errCode s.blk.err < 2 ^ 8; cases s.blk.err <;> decide
  | phase => show phaseCode s.blk.phase < 2 ^ 2; cases s.blk.phase <;> decide
  | errinfo => exact h.info_fits
  | rxbuf i => exact readRxbuf_lt s i
  | resbuf i => exact readResbuf_lt s i

/-- Settles O46: the value read at a register's number is the register's, row by row. -/
theorem hostReadsHaveNoSideEffect : Obligations.HostReadsHaveNoSideEffect := by
  intro s n h rest hr ht hh
  have hread (r : Reg) (hn : n = regNumber r) :
      readNumber { s with turns := rest, host := h } n = readReg { s with turns := rest, host := h } r := by
    rw [hn, readNumber_regNumber]
  refine ⟨_, step_read hr ht hh, hread .cmd, fun e => (hread .status e).trans (statusByte_eq _), hread .err,
    hread .errinfo, fun e => (hread .vflags e).trans (vflagsByte_eq _), hread .phase, hread .relay, hread .bank,
    hread .bstat, hread .index, hread .chan, hread .nreq, hread .plen, hread .txlen, hread .txcnt, hread .rxlen,
    hread .rxcnt, hread .rlen, hread .res, fun k => hread (.ad k), fun k hk => hread (.pbuf ⟨k, hk⟩),
    fun k hk => hread (.txbuf ⟨k, hk⟩), fun k hk hn hrx => ?_, fun k hk hn => ?_, fun r hn hf => ?_⟩
  · have hstored : ¬ (s.blk.phase = .rx ∧ s.blk.rxcnt.toNat ≤ k) := fun ⟨hp, hle⟩ => absurd (hrx hp) (Nat.not_lt.2 hle)
    rw [hread (.rxbuf ⟨k, hk⟩) hn]
    exact if_neg hstored
  · have hlen := s.blk.rlen.isLt
    rw [hread (.resbuf ⟨k, by omega⟩) hn]
    exact if_neg (Nat.not_le.2 hk)
  · rw [hread r (regNumber_of_regOfNumber hn).symm]
    exact readReg_lt hf r

end Sys2Proof.Machine

/-! PROOFS. What one step can do to the flags, the operands and the last result (spec/10_state.md R21, R22, R30 to R32,
spec/70_reset_and_hazards.md R282), the step that starts an op (R35), and the reset state (R53). -/

namespace Sys2Proof.Machine

/-! ## The step that starts an op -/

/-- HOST's write of an op code to `CMD`, the block not being busy, is exec of the op (R35). -/
theorem step_startsOp {s : State} {v : Nat} {i : Instr} {h : List HostOp} {rest : List Turn} (hr : s.rst = false)
    (hb : s.blk.status.busy = false) (ht : s.turns = .host :: rest) (hh : s.host = .wr 0x00 v :: h)
    (hd : decode (BitVec.ofNat 8 v) = .op i) : step s = exec i { s with turns := rest, host := h } := by
  have hs : startsOp 0x00 s.blk = true := startsOp_iff.2 ⟨rfl, hb⟩
  apply step_start
  rw [nextAction_host hr ht]
  simp [hostMove, hh, writeMove, hs, hd]

theorem decode_of_decodeTableWord {n w : Nat} {i : Instr} (h : decodeTableWord n w = some i) :
    decode (BitVec.ofNat 8 w) = .op i := by
  unfold decodeTableWord at h
  split at h
  · next hd => cases h; exact hd
  · cases h

/-- Settles O42: `withFetchWord` sets up such a step. -/
theorem stepRunsTheDecodedOp : Obligations.StepRunsTheDecodedOp :=
  ⟨fun _ _ _ _ _ hr hb ht hh hd => step_startsOp hr hb ht hh hd,
    fun s w _ hw => step_startsOp (s := s.withFetchWord 8 w) rfl rfl rfl rfl (decode_of_decodeTableWord hw)⟩

/-! ## The reset state -/

theorem atReset_reset : AtReset State.reset.blk := by
  constructor <;> simp [State.reset, Block.resetWith, operands, Buffer.unspecified]

/-- Settles O50: each register is read at its reset value; a buffer byte is none of these. -/
theorem resetStateIsTheResetColumn : Obligations.ResetStateIsTheResetColumn := by
  refine ⟨atReset_reset, fun r hp ht hr hs => ?_⟩
  cases r with
  | pbuf k => exact absurd rfl (hp k)
  | txbuf k => exact absurd rfl (ht k)
  | rxbuf k => exact absurd rfl (hr k)
  | resbuf k => exact absurd rfl (hs k)
  | ad k => fin_cases k <;> rfl
  | _ => rfl

/-! ## `HOSTERR` -/

theorem ExecCase.hosterr {i : Instr} {b t : Block} (h : ExecCase i b t) :
    AtReset t ∨ t.status.hosterr = b.status.hosterr := by
  cases h with
  | sreset _ h => rw [h]; exact .inl (atReset_resetBlock b)
  | refused _ _ h | nop _ h | csum _ h | build _ _ h | check _ _ h | payld _ _ h | clrstale _ h => rw [h]; exact .inr rfl
  | started c n _ _ _ _ hc _ h =>
    rw [h]
    obtain rfl | ⟨p, _, rfl⟩ := hc <;> exact .inr rfl

theorem FinishCase.hosterr {b t : Block} (h : FinishCase b t) : t.status.hosterr = b.status.hosterr := by
  cases h with
  | invalid _ h | short _ h | ack _ h | read _ _ _ h | other _ _ h => rw [h]; rfl

/-- What a step does to `HOSTERR`: a HOST write may set it, reset clears it, nothing else touches it (R32). -/
theorem step_hosterr {s t : State} (hstep : step s = .next t) :
    AtReset t.blk ∨ t.blk.status.hosterr = s.blk.status.hosterr
      ∨ (t.blk.status.hosterr = true ∧ ∃ n v h rest, s.turns = .host :: rest ∧ s.host = .wr n v :: h) := by
  cases block_cases hstep with
  | same h _ => exact .inr (.inl (by rw [h]))
  | reset h _ => rw [h]; exact .inl (atReset_resetBlock _)
  | wrote rest n v more ht hh _ h _ =>
    rw [h]
    cases writeNumber_cases n v s.blk with
    | refused e => rw [e]; exact .inr (.inr ⟨rfl, n, v, more, rest, ht, hh⟩)
    | operand _ _ _ _ _ _ _ e | pbuf _ _ e | rxlen _ _ e | rxbuf _ _ _ e => rw [e]; exact .inr (.inl rfl)
  | op _ _ _ _ _ _ _ _ _ h _ => exact h.hosterr.imp_right .inl
  | illegal _ _ _ _ _ _ _ _ h _ | timeout _ _ _ _ _ _ h _ | io _ _ _ _ _ _ _ h _ | sent _ _ _ _ h _
  | received _ _ _ _ _ _ h _ => rw [h]; exact .inr (.inl rfl)
  | finished _ _ _ _ _ _ h _ => exact .inr (.inl h.hosterr)

/-- Settles O54, from what a step can do to `HOSTERR`. -/
theorem hosterrIsSticky : Obligations.HosterrIsSticky := by
  intro s t hstep
  rcases step_hosterr hstep with hreset | hsame | ⟨hset, hwrite⟩
  · refine ⟨fun _ _ => hreset, fun _ ht => ?_⟩
    rw [hreset.flags.1] at ht
    cases ht
  · refine ⟨fun h h' => ?_, fun h h' => ?_⟩ <;> rw [hsame, h] at h' <;> cases h'
  · refine ⟨fun _ h' => ?_, fun _ _ => hwrite⟩
    rw [hset] at h'
    cases h'

/-! ## `STALE` -/

/-- An error leaves `STALE` as it was unless it is one of those that set it (R236). -/
theorem raise_stale {k : ErrKind} {e : Nat} {b : Block} (h : setsStale k b = false) :
    (raise k e b).status.stale = b.status.stale := by
  simp [h]

/-- What sets `STALE` (R31). -/
theorem setsStale_cause {k : ErrKind} {b : Block} (h : setsStale k b = true) :
    k = .invalid ∨ ((k = .timeout ∨ k = .io) ∧ 0 < b.txcnt.toNat) := by
  simp only [setsStale, Bool.or_eq_true, Bool.and_eq_true, decide_eq_true_eq] at h
  obtain ⟨⟨hk, hc⟩, _⟩ | hk := h
  · exact .inr ⟨hk, hc⟩
  · exact .inl hk

theorem ExecCase.stale {i : Instr} {b t : Block} (h : ExecCase i b t) :
    AtReset t ∨ t.cmd = encode .clrstale ∧ t.status.stale = false ∨ t.status.stale = b.status.stale := by
  cases h with
  | sreset _ h => rw [h]; exact .inl (atReset_resetBlock b)
  | clrstale hi h => rw [h, hi]; exact .inr (.inl ⟨rfl, rfl⟩)
  | refused _ _ h => rw [h, raise_stale (setsStale_arg _)]; exact .inr (.inr rfl)
  | nop _ h | csum _ h | build _ _ h | check _ _ h | payld _ _ h => rw [h]; exact .inr (.inr rfl)
  | started c n _ _ _ _ hc _ h =>
    rw [h]
    obtain rfl | ⟨p, _, rfl⟩ := hc <;> exact .inr (.inr rfl)

theorem FinishCase.stale {b t : Block} (h : FinishCase b t) :
    t.err = .invalid ∧ t.status.stale = true ∨ t.status.stale = b.status.stale := by
  cases h with
  | invalid _ h => rw [h]; exact .inl ⟨rfl, by simp [setsStale]⟩
  | short _ h => rw [h, raise_stale (by simp [setsStale])]; exact .inr rfl
  | ack _ h | read _ _ _ h | other _ _ h => rw [h]; exact .inr rfl

/-- A cause for `STALE` to be set by the step from `s` to `t` (R31, R236). -/
def StaleCause (s t : State) : Prop :=
  s.blk.phase ≠ .idle
    ∧ (t.blk.err = .invalid ∨ ((t.blk.err = .timeout ∨ t.blk.err = .io) ∧ 0 < s.blk.txcnt.toNat))

/-- An exchange ended by `TIMEOUT` or `IO`: `STALE` is as it was, or it is set and for a cause. -/
theorem stale_raise {s t : State} {k : ErrKind} {e : Nat} (hp : s.blk.phase ≠ .idle) (h : t.blk = raise k e s.blk) :
    t.blk.status.stale = s.blk.status.stale ∨ (t.blk.status.stale = true ∧ StaleCause s t) := by
  cases hset : setsStale k s.blk with
  | false => rw [h, raise_stale hset]; exact .inl rfl
  | true => exact .inr ⟨by rw [h]; simp [hset], hp, by rw [h]; exact setsStale_cause hset⟩

/-- What a step does to `STALE` (R31). -/
theorem step_stale {s t : State} (hstep : step s = .next t) :
    AtReset t.blk ∨ t.blk.cmd = encode .clrstale ∧ t.blk.status.stale = false
      ∨ t.blk.status.stale = s.blk.status.stale ∨ (t.blk.status.stale = true ∧ StaleCause s t) := by
  cases block_cases hstep with
  | same h _ => rw [h]; exact .inr (.inr (.inl rfl))
  | reset h _ => rw [h]; exact .inl (atReset_resetBlock _)
  | wrote _ n v _ _ _ _ h _ =>
    obtain ⟨_, hst, _⟩ := writeNumber_frame n v s.blk
    rw [h, hst]
    exact .inr (.inr (.inl rfl))
  | illegal _ _ _ _ _ _ _ _ h _ =>
    rw [h, illegalOp, raise_stale (setsStale_arg _)]
    exact .inr (.inr (.inl rfl))
  | op _ _ _ _ _ _ _ _ _ h _ => exact h.stale.imp_right (Or.imp_right .inl)
  | timeout _ _ _ _ hp _ h _ => exact .inr (.inr (stale_raise hp h))
  | io _ _ _ _ _ hp _ h _ =>
    exact .inr (.inr (stale_raise (by obtain ⟨hp, _⟩ | ⟨hp, _⟩ := hp <;> simp [hp]) h))
  | sent _ _ _ _ h _ | received _ _ _ _ _ _ h _ => rw [h]; exact .inr (.inr (.inl rfl))
  | finished _ _ v _ hp _ h _ =>
    obtain ⟨herr, hset⟩ | hsame := h.stale
    · exact .inr (.inr (.inr ⟨hset, by simp [hp], .inl herr⟩))
    · exact .inr (.inr (.inl hsame))

/-- Settles O53, from what a step can do to `STALE`. -/
theorem staleIsSticky : Obligations.StaleIsSticky := by
  intro s t hstep
  rcases step_stale hstep with hreset | ⟨hcmd, hclr⟩ | hsame | ⟨hset, hcause⟩
  · refine ⟨fun _ _ => .inl hreset, fun _ ht => ?_⟩
    rw [hreset.flags.1] at ht
    cases ht
  · refine ⟨fun _ _ => .inr hcmd, fun _ ht => ?_⟩
    rw [hclr] at ht
    cases ht
  · refine ⟨fun h h' => ?_, fun h h' => ?_⟩ <;> rw [hsame, h] at h' <;> cases h'
  · refine ⟨fun _ h' => ?_, fun _ _ => hcause⟩
    rw [hset] at h'
    cases h'

/-! ## The operands -/

/-- The operand registers, `PLEN` and the bytes of `PBUF` are the same. -/
def SameOperands (b t : Block) : Prop :=
  operands t = operands b ∧ t.plen = b.plen ∧ ∀ i, readByte t.mem .pbuf i = readByte b.mem .pbuf i

theorem sameOperands_stored (v : Byte) (b : Block) : SameOperands b (stored v b) :=
  ⟨rfl, rfl, fun _ => readByte_writeByte_other _ _ (by simp)⟩

theorem FinishCase.sameOperands {b t : Block} (h : FinishCase b t) : SameOperands b t := by
  cases h with
  | invalid _ h | short _ h | ack _ h | other _ _ h => rw [h]; exact ⟨rfl, rfl, fun _ => rfl⟩
  | read _ _ _ h =>
    rw [h]
    exact ⟨rfl, rfl, fun _ => readByte_loadBytes_other (b := .resbuf) (c := .pbuf) _ _ _ (by decide)⟩

/-- Settles O49: the FE's own steps write neither an operand register nor `PBUF`. -/
theorem operandsAreWrittenOnlyByHostAndReset : Obligations.OperandsAreWrittenOnlyByHostAndReset := by
  intro s t hstep hhost hreset
  show SameOperands s.blk t.blk
  cases block_cases hstep with
  | same h _ | timeout _ _ _ _ _ _ h _ | io _ _ _ _ _ _ _ h _ | sent _ _ _ _ h _ =>
    rw [h]; exact ⟨rfl, rfl, fun _ => rfl⟩
  | reset h _ => exact absurd (h ▸ atReset_resetBlock _) hreset
  | wrote rest _ _ _ ht | illegal rest _ _ _ _ ht | op rest _ _ _ _ ht => exact absurd ht (hhost rest)
  | received _ _ v _ _ _ h _ => rw [h]; exact sameOperands_stored v s.blk
  | finished _ _ v _ _ _ h _ =>
    obtain ⟨ho, hl, hm⟩ := sameOperands_stored v s.blk
    obtain ⟨ho', hl', hm'⟩ := h.sameOperands
    exact ⟨ho'.trans ho, hl'.trans hl, fun i => (hm' i).trans (hm i)⟩

/-! ## The last result -/

/-- With one outcome per op, a done block has a result or an error (R30). -/
theorem FlagsOk.result_or_error {cfg : Config} {b : Block} (h : FlagsOk cfg b) (hd : b.status.done = true) :
    ((∃ r, resultOf b = some r) ∧ b.status.ok = true ∧ b.err = .none)
      ∨ (resultOf b = none ∧ b.status.ok = false ∧ b.err ≠ .none) := by
  have hiff := h.outcome hd
  cases hok : b.status.ok with
  | true => exact .inl ⟨⟨_, resultOf_ok hd hok⟩, rfl, hiff.1 hok⟩
  | false => exact .inr ⟨resultOf_notOk hok, rfl, fun he => by simp [hiff.2 he] at hok⟩

/-- HOST's writes that start no op leave the result (R282). -/
theorem resultOf_writeNumber (n v : Nat) (b : Block) : resultOf (writeNumber n v b) = resultOf b := by
  obtain ⟨_, hst, _, _, hc, hr, hl, ha, _, _, _, hm⟩ := writeNumber_frame n v b
  exact resultOf_congr (by rw [hst]) (by rw [hst]) hc hr hl ha fun i => hm .resbuf i (by decide) (by decide)

/-- A result is there only while no op is in flight (R29, R30). -/
theorem RunInv.idle_of_result {s : State} (h : RunInv s) {r : OpResult} (hres : resultOf s.blk = some r) :
    s.blk.phase = .idle := by
  have hd : s.blk.status.done = true := (resultOf_isSome.1 (by simp [hres])).1
  refine h.seq.idle ?_
  by_contra hb
  exact h.flags.not_both ⟨by simpa using hb, hd⟩

/-- A result stays until HOST writes `CMD` or the block is reset (R282). -/
theorem step_keeps_result {s t : State} (hinv : RunInv s) (hstep : step s = .next t) {r : OpResult}
    (hres : resultOf s.blk = some r) :
    resultOf t.blk = some r ∨ AtReset t.blk
      ∨ ∃ v h rest, s.turns = .host :: rest ∧ s.host = .wr 0x00 v :: h := by
  have hidle := hinv.idle_of_result hres
  have hcmd {n v : Nat} {rest : List Turn} {more : List HostOp} (ht : s.turns = .host :: rest)
      (hh : s.host = .wr n v :: more) (hn : startsOp n s.blk = true) :
      ∃ v h rest, s.turns = .host :: rest ∧ s.host = .wr 0x00 v :: h := by
    obtain rfl : regNumber .cmd = n := regNumber_of_regOfNumber (startsOp_iff.1 hn).1
    exact ⟨v, more, rest, ht, hh⟩
  cases block_cases hstep with
  | same h _ => rw [h]; exact .inl hres
  | reset h _ => rw [h]; exact .inr (.inl (atReset_resetBlock _))
  | wrote _ n v _ _ _ _ h _ => rw [h, resultOf_writeNumber]; exact .inl hres
  | illegal _ _ _ _ _ ht hh hn _ _ => exact .inr (.inr (hcmd ht hh hn))
  | op _ _ _ _ _ ht hh hn _ _ _ => exact .inr (.inr (hcmd ht hh hn))
  | timeout _ _ _ _ hp _ _ _ => exact absurd hidle hp
  | io _ _ _ _ _ hp _ _ _ => simp [hidle] at hp
  | sent _ _ _ hp _ _ | received _ _ _ _ hp _ _ _ | finished _ _ _ _ hp _ _ _ => simp [hidle] at hp

/-- Settles O39: the first two parts are the outcome's consistency after the step, the last is the frame of a result. -/
theorem resultsAreReadableOnlyWithOk : Obligations.ResultsAreReadableOnlyWithOk := by
  intro s t hinv hstep
  have hf : FlagsOk t.cfg t.blk := step_flagsOk hinv.seq hinv.flags hstep
  exact ⟨resultOf_notDone, hf.result_or_error, fun _ => step_keeps_result hinv hstep⟩

end Sys2Proof.Machine

/-! PROOFS. The stream and its channels, and HOST's moves during an exchange (spec/20_memory.md R67 to R69, R77, R81, R82,
spec/10_state.md R32, R39). -/

namespace Sys2Proof.Machine

/-! ## The bytes the stream holds -/

/-- What an FE step does to the bytes the stream holds: only in `RX` is one read, the oldest (R68). -/
theorem feStep_held (tx : TxEvent) (rx : RxOffer) (s : State) :
    (feStep tx rx s).stream.held = s.stream.held
      ∨ (s.blk.phase = .rx ∧ ∃ b, s.stream.held = b :: (feStep tx rx s).stream.held) := by
  cases hp : s.blk.phase with
  | idle => rw [feStep_idle hp]; exact .inl rfl
  | tx =>
    rw [feStep_tx hp]
    rcases txStep_cases tx s with ⟨_, h⟩ | ⟨_, e, _, h⟩ | ⟨_, _, h⟩ | ⟨_, _, h⟩ <;> rw [h] <;> exact .inl rfl
  | rx =>
    rw [feStep_rx hp]
    rcases rxStep_cases rx s with ⟨_, h⟩ | ⟨_, e, _, h⟩ | ⟨_, _, v, q, hq, h⟩ | ⟨_, _, h⟩ <;> rw [h]
    · exact .inl rfl
    · exact .inl rfl
    · exact .inr ⟨rfl, v, hq⟩
    · exact .inl rfl

/-- What a step does to the bytes the stream holds (R50, R68, R82; `drain` is log entry 2). -/
theorem step_held {s t : State} (hstep : step s = .next t) :
    t.stream.held = s.stream.held
      ∨ (∃ b rest, s.turns = .arrive b :: rest ∧ t.stream.held = s.stream.held ++ [b])
      ∨ (∃ rest, s.turns = .drain :: rest ∧ t.stream.held = [])
      ∨ (s.blk.phase = .rx ∧ ∃ b, s.stream.held = b :: t.stream.held) := by
  cases step_cases hstep with
  | quiet _ h | hostLost _ _ _ h | feReset _ _ _ _ _ h | cancel _ _ _ h | rst _ _ _ h =>
    rw [h, settle_stream]; exact .inl rfl
  | hostNone _ _ _ _ h | hostRead _ _ _ _ _ _ h | hostWaited _ _ _ _ _ _ h | hostWaits _ _ _ _ _ _ h
  | hostWrote _ _ _ _ _ _ _ _ h | illegal _ _ _ _ _ _ _ _ _ _ h => rw [h]; exact .inl rfl
  | op _ _ _ _ _ _ _ _ _ _ h => rw [(exec_cases h).1]; exact .inl rfl
  | arrive rest b ht h => rw [h, settle_stream]; exact .inr (.inl ⟨b, rest, ht, rfl⟩)
  | drain rest ht h => rw [h, settle_stream]; exact .inr (.inr (.inl ⟨rest, ht, rfl⟩))
  | fe rest tx rx _ _ h =>
    rw [h]
    exact (feStep_held tx rx { s with turns := rest }).imp_right fun hrx => .inr (.inr hrx)

/-- What a step does to the bytes sent: only in `TX` does one go out, `TXBUF[TXCNT]` (R67, R77). -/
theorem step_sent {s t : State} (hstep : step s = .next t) :
    t.stream.sent = s.stream.sent
      ∨ (s.blk.phase = .tx ∧ t.blk.txcnt = s.blk.txcnt + 1
          ∧ t.stream.sent = s.stream.sent ++ [readByte s.blk.mem .txbuf s.blk.txcnt.toNat]) := by
  cases block_cases hstep with
  | sent _ _ _ hp h hs => exact .inr ⟨hp, by rw [h, txAdvance_txcnt], hs⟩
  | same _ hs | reset _ hs | wrote _ _ _ _ _ _ _ _ hs | illegal _ _ _ _ _ _ _ _ _ hs | op _ _ _ _ _ _ _ _ _ _ hs
  | timeout _ _ _ _ _ _ _ hs | io _ _ _ _ _ _ _ _ hs | received _ _ _ _ _ _ _ hs | finished _ _ _ _ _ _ _ hs =>
    exact .inl hs

/-- Settles O40, from what a step does to each direction of the stream. -/
theorem onlyTheSequencerTouchesTheStream : Obligations.OnlyTheSequencerTouchesTheStream :=
  fun _ _ hstep => ⟨step_sent hstep, step_held hstep⟩

/-! ## HOST's moves during an exchange -/

/-- While the block is busy HOST's writes leave the response and its flags (R32, R39). -/
theorem writeNumber_busy {b : Block} (hb : b.status.busy = true) (n v : Nat) :
    (writeNumber n v b).rxlen = b.rxlen ∧ (writeNumber n v b).vflags = b.vflags
      ∧ ∀ i, readByte (writeNumber n v b).mem .rxbuf i = readByte b.mem .rxbuf i := by
  cases writeNumber_cases n v b with
  | refused h | operand _ _ _ _ _ _ _ h => rw [h]; exact ⟨rfl, rfl, fun _ => rfl⟩
  | pbuf _ _ h => rw [h]; exact ⟨rfl, rfl, fun _ => readByte_writeByte_other _ _ (by simp)⟩
  | rxlen _ hidle _ | rxbuf _ _ hidle _ => rw [hb] at hidle; cases hidle

/-- HOST's move while the block is busy starts no op and leaves the stream: at most it is a register write (R35, R81). -/
theorem step_host_busy {s t : State} {rest : List Turn} (hb : s.blk.status.busy = true) (hr : s.rst = false)
    (ht : s.turns = .host :: rest) (hstep : step s = .next t) :
    t.stream = s.stream ∧ (t.blk = s.blk ∨ ∃ n v, t.blk = writeNumber n v s.blk) := by
  have hno {n : Nat} : startsOp n s.blk ≠ true := by simp [startsOp_iff, hb]
  cases step_cases hstep with
  | hostNone _ _ _ _ h | hostRead _ _ _ _ _ _ h | hostWaited _ _ _ _ _ _ h | hostWaits _ _ _ _ _ _ h =>
    rw [h]; exact ⟨rfl, .inl rfl⟩
  | hostWrote _ n v _ _ _ _ _ h => rw [h]; exact ⟨rfl, .inr ⟨n, v, rfl⟩⟩
  | illegal _ _ _ _ _ _ _ _ hs | op _ _ _ _ _ _ _ _ hs => exact absurd hs hno
  | hostLost _ _ hr' => rw [hr] at hr'; cases hr'
  | quiet ht' | feReset _ _ _ ht' | fe _ _ _ ht' | cancel _ _ ht' | rst _ _ ht' | arrive _ _ ht' | drain _ ht' =>
    rw [ht] at ht'; cases ht'

/-- Settles O48: an op in flight keeps the block busy, so HOST's move is at most a write of an operand or of `PBUF`, or a
refused one. -/
theorem hostMovesDoNotTouchAnOpInFlight : Obligations.HostMovesDoNotTouchAnOpInFlight := by
  intro s t rest hseq hfly hr ht hstep
  have hb : s.blk.status.busy = true := hseq.busy_iff.2 hfly
  obtain ⟨hstream, hsame | ⟨n, v, hwrote⟩⟩ := step_host_busy hb hr ht hstep
  · rw [hsame]
    exact ⟨rfl, rfl, rfl, rfl, rfl, rfl, rfl, rfl, rfl, rfl, rfl, rfl, rfl, hstream, fun _ _ _ => rfl⟩
  · obtain ⟨hphase, hstatus, herr, hinfo, hcmd, hres, hrlen, had, htxcnt, hrxcnt, htxlen, hmem⟩ :=
      writeNumber_frame n v s.blk
    obtain ⟨hrxlen, hvflags, hrxbuf⟩ := writeNumber_busy hb n v
    rw [hwrote]
    refine ⟨hcmd, hphase, htxcnt, hrxcnt, htxlen, hrxlen, hvflags, herr, hinfo, hstatus, hres, hrlen, had, hstream,
      fun b i hp => ?_⟩
    by_cases hrx : b = .rxbuf
    · rw [hrx]; exact hrxbuf i
    · exact hmem b i hp hrx

/-! ## The channel not in use -/

/-- Outside `RX` the FE does not look at the RX channel (R69). -/
theorem feStep_rx_unseen {s : State} (h : s.blk.phase ≠ .rx) (tx : TxEvent) (rx rx' : RxOffer) :
    feStep tx rx s = feStep tx rx' s := by
  cases hp : s.blk.phase with
  | idle => rw [feStep_idle hp, feStep_idle hp]
  | tx => rw [feStep_tx hp, feStep_tx hp]
  | rx => exact absurd hp h

/-- Outside `TX` the FE does not look at the TX channel (R69). -/
theorem feStep_tx_unseen {s : State} (h : s.blk.phase ≠ .tx) (tx tx' : TxEvent) (rx : RxOffer) :
    feStep tx rx s = feStep tx' rx s := by
  cases hp : s.blk.phase with
  | idle => rw [feStep_idle hp, feStep_idle hp]
  | tx => exact absurd hp h
  | rx => rw [feStep_rx hp, feStep_rx hp]

/-- The FE's move: what the stream offers is looked at by the FE's step alone, and with `rst` at 1 not at all (R270). -/
theorem step_feTurn (s : State) (tx : TxEvent) (rx : RxOffer) (rest : List Turn) :
    step { s with turns := .fe tx rx :: rest }
      = .next (if s.rst then settle { s with turns := rest } else feStep tx rx { s with turns := rest }) := by
  apply step_ended
  cases hr : s.rst <;> simp [nextAction, move]

/-- Settles O34, from what the FE's step does not look at. -/
theorem theUnusedChannelIsNotSeen : Obligations.TheUnusedChannelIsNotSeen := by
  intro s tx tx' rx rx' rest
  refine ⟨fun hp => ?_, fun hp => ?_⟩ <;> rw [step_feTurn, step_feTurn]
  · rw [feStep_rx_unseen (by exact hp) tx rx rx']
  · rw [feStep_tx_unseen (by exact hp) tx tx' rx]

end Sys2Proof.Machine

/-! PROOFS. Op codes and program lines (spec/30_encoding.md R110, R113, R115): the op code table is inverted row by row, and
an access by a mapped number is one line, and one line only. -/

namespace Sys2Proof.Machine

/-! ## Op codes -/

theorem mem_of_lookupOp {c : Byte} {i : Instr} {l : List (Byte × Instr)} (h : lookupOp c l = some i) : (c, i) ∈ l := by
  induction l with
  | nil => cases h
  | cons row rows ih =>
    obtain ⟨k, j⟩ := row
    rw [lookupOp] at h
    split at h
    · next hk => cases h; rw [hk]; exact List.mem_cons_self
    · exact List.mem_cons_of_mem _ (ih h)

theorem lookupOp_eq_none_iff {c : Byte} {l : List (Byte × Instr)} :
    lookupOp c l = none ↔ ∀ row ∈ l, row.1 ≠ c := by
  induction l with
  | nil => simp [lookupOp]
  | cons row rows ih => by_cases hk : row.1 = c <;> simp [lookupOp, hk, ih]

/-- Every row of the table is an op with its code (R110). -/
theorem encode_of_mem_opcodeTable {row : Byte × Instr} : row ∈ opcodeTable → encode row.2 = row.1 := by
  revert row
  decide

theorem decode_eq_op_iff {c : Byte} {i : Instr} : decode c = .op i ↔ encode i = c := by
  refine ⟨fun h => ?_, fun h => h ▸ decode_encode i⟩
  unfold decode at h
  split at h
  · next j hj => cases h; exact encode_of_mem_opcodeTable (mem_of_lookupOp hj)
  · cases h

/-- Settles O1: the codes are the encoder's rows, and decoding inverts it. -/
theorem opcodesAreThoseOfTheTable : Obligations.OpcodesAreThoseOfTheTable := by
  refine ⟨rfl, rfl, rfl, rfl, rfl, rfl, rfl, rfl, rfl, rfl, rfl, rfl, rfl, rfl, rfl, rfl, rfl, rfl, rfl, rfl, ?_⟩
  exact fun _ _ => decode_eq_op_iff

/-- A value is illegal exactly when no row of the table has it (R113). -/
theorem decode_eq_illegal_iff {c : Byte} : decode c = .illegalOpcode c ↔ ∀ row ∈ opcodeTable, row.1 ≠ c := by
  rw [← lookupOp_eq_none_iff]
  unfold decode
  cases lookupOp c opcodeTable <;> simp

/-- The gaps of the table are R113's five ranges. -/
theorem decode_illegal_ranges (c : Byte) : decode c = .illegalOpcode c ↔
    (0x05 ≤ c.toNat ∧ c.toNat ≤ 0x07) ∨ (0x0A ≤ c.toNat ∧ c.toNat ≤ 0x0F) ∨ (0x17 ≤ c.toNat ∧ c.toNat ≤ 0x1F)
      ∨ (0x24 ≤ c.toNat ∧ c.toNat ≤ 0xEF) ∨ (0xF1 ≤ c.toNat ∧ c.toNat ≤ 0xFE) := by
  have hc := c.isLt
  rw [decode_eq_illegal_iff]
  simp [opcodeTable, BitVec.toNat_eq]
  omega

/-- HOST's write of an illegal op code to `CMD`, the block not being busy, ends at once with `ARG` (R113). -/
theorem step_illegal {s : State} {v : Nat} {c : Byte} {h : List HostOp} {rest : List Turn} (hr : s.rst = false)
    (hb : s.blk.status.busy = false) (ht : s.turns = .host :: rest) (hh : s.host = .wr 0x00 v :: h)
    (hd : decode (BitVec.ofNat 8 v) = .illegalOpcode c) :
    step s = .next (refusedState c { s with turns := rest, host := h }) := by
  have hs : startsOp 0x00 s.blk = true := startsOp_iff.2 ⟨rfl, hb⟩
  apply step_ended
  rw [nextAction_host hr ht, ← refused_eq]
  simp [hostMove, hh, writeMove, hs, hd, illegalOp]

/-- Settles O2: the ranges are the gaps of the table; an idle block that is not busy keeps `PHASE` and `BUSY`. -/
theorem illegalOpcodesCompleteWithArg : Obligations.IllegalOpcodesCompleteWithArg := by
  refine ⟨decode_illegal_ranges, fun s c h rest hd hr hb hp ht hh => ?_⟩
  rw [step_illegal hr hb ht hh (c := c) (by rwa [BitVec.ofNat_toNat, BitVec.setWidth_eq])]
  simp [refusedState, hb, hp]

/-! ## Program lines -/

/-- A write that is not of an op code to `CMD` is the line that names its register. -/
theorem decodeLine_wr {r : Reg} {v : Nat} (h : r = .cmd → 256 ≤ v ∨ ∀ i, decode (BitVec.ofNat 8 v) ≠ .op i) :
    decodeLine (.wr (regNumber r) v) = some (.wr r v) := by
  simp only [decodeLine, regOfNumber_regNumber]
  split
  · next hc =>
    obtain ⟨rfl, hv⟩ := hc
    split
    · next i hd => exact absurd hd ((h rfl).resolve_left (by omega) i)
    · rfl
  · rfl

/-- A write of an op code to `CMD` is the op's own line. -/
theorem decodeLine_wr_op {v : Nat} {i : Instr} (hv : v < 256) (hd : decode (BitVec.ofNat 8 v) = .op i) :
    decodeLine (.wr (regNumber .cmd) v) = some (.op i) := by
  simp [decodeLine, regOfNumber_regNumber, hv, hd]

theorem decodeLine_encode (i : Instr) : decodeLine (.wr (regNumber .cmd) (encode i).toNat) = some (.op i) :=
  decodeLine_wr_op (encode i).isLt (by rw [BitVec.ofNat_toNat, BitVec.setWidth_eq, decode_encode])

/-- An op's line stands for the write whose value decodes to it. -/
theorem encodeLine_op {v : Nat} {i : Instr} (hv : v < 256) (hd : decode (BitVec.ofNat 8 v) = .op i) :
    encodeLine (.op i) = .wr (regNumber .cmd) v := by
  rw [encodeLine, decode_eq_op_iff.1 hd, BitVec.toNat_ofNat, Nat.mod_eq_of_lt hv]

theorem decodeLine_rd (r : Reg) : decodeLine (.rd (regNumber r)) = some (.rd r) := by
  simp [decodeLine, regOfNumber_regNumber]

/-- An access by a mapped number is read as a line that stands for it. -/
theorem exists_line {h : HostOp} (hw : h.wf = true) : ∃ l, decodeLine h = some l ∧ encodeLine l = h := by
  cases h with
  | wait => exact ⟨.wait, rfl, rfl⟩
  | rd n =>
    obtain ⟨r, rfl⟩ := exists_regNumber hw
    exact ⟨.rd r, decodeLine_rd r, rfl⟩
  | wr n v =>
    obtain ⟨r, rfl⟩ := exists_regNumber hw
    by_cases hop : r = .cmd ∧ v < 256 ∧ ∃ i, decode (BitVec.ofNat 8 v) = .op i
    · obtain ⟨rfl, hv, i, hd⟩ := hop
      exact ⟨.op i, decodeLine_wr_op hv hd, encodeLine_op hv hd⟩
    · refine ⟨.wr r v, decodeLine_wr fun hr => ?_, rfl⟩
      by_contra hno
      push Not at hno
      exact hop ⟨hr, hno⟩

/-- An access by an unmapped number has no line. -/
theorem decodeLine_unmapped {h : HostOp} (hw : h.wf = false) : decodeLine h = none := by
  have hno {n : Nat} (hn : mappedNumber n = false) : regOfNumber n = none := by
    simpa [hn] using regOfNumber_isSome n
  cases h with
  | wait => cases hw
  | rd n => simp [decodeLine, hno hw]
  | wr n v => simp [decodeLine, hno hw]

/-- Settles O4: line by line one way; the other way by whether the access's number is mapped. -/
theorem programLinesRoundTrip : Obligations.ProgramLinesRoundTrip := by
  refine ⟨fun _ _ => decodeLine_wr, fun i => ⟨decodeLine_encode i, decodeLine_encode i⟩, decodeLine_rd, rfl,
    fun h l hl => ?_, fun h => ?_⟩ <;> cases hw : h.wf
  · rw [decodeLine_unmapped hw] at hl; cases hl
  · obtain ⟨l', hl', he⟩ := exists_line hw
    rw [hl'] at hl
    cases hl
    exact he
  · rw [decodeLine_unmapped hw]; rfl
  · obtain ⟨l, hl, _⟩ := exists_line hw
    rw [hl]; rfl

end Sys2Proof.Machine

/-! PROOFS. The codec functions over byte lists (spec/30_encoding.md R90, R96 to R101): the checksum is the sum in `Byte`, and
the valid packets are exactly the frames of payloads of at most 255 bytes. -/

namespace Sys2Proof.Machine

/-! ## The checksum -/

/-- `csum8` is the sum of the bytes in `Byte`, whose addition is modulo 256 (R96). -/
theorem csum8_eq_sum (s : List Byte) : csum8 s = s.sum := List.sum_eq_foldl.symm

theorem toNat_sum (s : List Byte) : s.sum.toNat = (s.map BitVec.toNat).sum % 256 := by
  induction s with
  | nil => rfl
  | cons b bs ih => simp [BitVec.toNat_add, ih]

/-- Settles O5: each law is one of the sum's. -/
theorem checksumIsTheSumModulo256 : Obligations.ChecksumIsTheSumModulo256 := by
  refine ⟨rfl, fun s => ?_, fun a b => ?_, fun a b hab => ?_, by decide⟩ <;> simp only [csum8_eq_sum]
  · exact toNat_sum s
  · rw [List.sum_append, BitVec.toNat_add]
  · exact hab.sum_eq

/-- Changing one byte changes the checksum. -/
theorem csum8_set_eq_iff {s : List Byte} {i : Nat} {v : Byte} (hi : i < s.length) :
    csum8 (s.set i v) = csum8 s ↔ s[i]? = some v := by
  rw [csum8_eq_sum, csum8_eq_sum, List.sum_set', dif_pos hi, add_eq_left, neg_add_eq_zero,
    List.getElem?_eq_getElem hi, Option.some_inj]

/-! ## Frames -/

/-- The bytes of a frame before its checksum, and the checksum (R97). -/
theorem frame_eq (p : List Byte) : frame p = handshake :: BitVec.ofNat 8 p.length :: (p ++ [csum8 (framePre p)]) := rfl

/-- A frame's checksum is that of its first `p.length` + 2 bytes. -/
theorem frame_take (p : List Byte) : (frame p).take (2 + p.length) = framePre p :=
  List.take_left' (by rw [framePre_length, Nat.add_comm])

/-- A sequence of at least 3 bytes, by the parts of a packet (R90). -/
theorem exists_parts {s : List Byte} (h : 3 ≤ s.length) : ∃ a l p c, s = a :: l :: (p ++ [c]) := by
  match s, h with
  | a :: l :: x :: xs, _ => exact ⟨a, l, (x :: xs).dropLast, _, by rw [List.dropLast_concat_getLast (by simp)]⟩

/-- Validity, part by part (R98). -/
theorem isValid_parts {a l c : Byte} {p : List Byte} :
    isValid (a :: l :: (p ++ [c])) = true ↔ a = handshake ∧ l.toNat = p.length ∧ c = csum8 (a :: l :: p) := by
  have htake : (a :: l :: (p ++ [c])).take (p.length + 2) = a :: l :: p := by simp
  simp [isValid, htake, and_assoc]

theorem payload_parts (a l c : Byte) (p : List Byte) : payload (a :: l :: (p ++ [c])) = p := by
  simp [payload]

theorem payload_frame (p : List Byte) : payload (frame p) = p := payload_parts ..

/-- A valid packet is the frame of its payload (R100). -/
theorem frame_payload {s : List Byte} (h : isValid s = true) : frame (payload s) = s := by
  obtain ⟨a, l, p, c, rfl⟩ := exists_parts (isValid_length h).1
  obtain ⟨rfl, hl, rfl⟩ := isValid_parts.1 h
  have hlen : BitVec.ofNat 8 p.length = l := by rw [← hl, BitVec.ofNat_toNat, BitVec.setWidth_eq]
  rw [payload_parts, frame_eq, framePre, hlen]

theorem payload_length (s : List Byte) : (payload s).length = s.length - 3 := by
  simp [payload]
  omega

/-- Settles O6: the layout is `frame`'s, and a valid packet has 3 to 258 bytes. -/
theorem frameLayoutAndLengths : Obligations.FrameLayoutAndLengths := by
  refine ⟨fun p _ => ⟨frame_length p, rfl, rfl, fun i hi => ?_, ?_⟩, fun s hs => ?_⟩
  · simp [frame_eq, Nat.add_comm 2, List.getElem?_append_left hi]
  · rw [frame_take]
    simp [frame_eq, Nat.add_comm 2]
  · by_contra hv
    have := isValid_length (Bool.eq_true_of_not_eq_false hv)
    omega

/-- Settles O7: (a) and (b) by the layout of a frame, (c) by that of a valid packet. -/
theorem frameAndPayloadRoundTrip : Obligations.FrameAndPayloadRoundTrip := by
  refine ⟨fun p hp => ⟨isValid_frame hp, payload_frame p⟩, fun s hs => ⟨frame_payload hs, ?_⟩⟩
  obtain ⟨a, l, p, c, rfl⟩ := exists_parts (isValid_length hs).1
  obtain ⟨_, hl, _⟩ := isValid_parts.1 hs
  simp [payload_parts, hl]

/-! ## Changes of a packet -/

/-- A valid packet ends with the checksum of the bytes before it. -/
theorem exists_csum8_last {s : List Byte} (h : isValid s = true) : ∃ pre, s = pre ++ [csum8 pre] :=
  ⟨framePre (payload s), (frame_payload h).symm⟩

/-- Two sequences that end with their checksums do not differ in one byte alone. -/
theorem getElem?_of_set_csum8 {pre pre' : List Byte} {i : Nat} {v : Byte} (hi : i < (pre ++ [csum8 pre]).length)
    (h : (pre ++ [csum8 pre]).set i v = pre' ++ [csum8 pre']) : (pre ++ [csum8 pre])[i]? = some v := by
  rw [List.set_append] at h
  split at h
  · next hlt =>
    obtain ⟨hpre, hsum⟩ := List.append_inj' h rfl
    rw [List.getElem?_append_left hlt, ← csum8_set_eq_iff hlt, hpre]
    simpa using hsum.symm
  · next hge =>
    obtain rfl : i = pre.length := by simp at hi; omega
    obtain ⟨rfl, hsum⟩ := List.append_inj' h (by simp)
    simpa using hsum.symm

/-- A payload of the same length and checksum can stand for another in its frame (R101). -/
theorem isValid_replace_payload {p q : List Byte} (hp : p.length ≤ 255) (hl : q.length = p.length)
    (hs : csum8 q = csum8 p) :
    isValid ([handshake, BitVec.ofNat 8 p.length] ++ q ++ [csum8 (framePre p)]) = true := by
  have hsum : csum8 (framePre p) = csum8 (framePre q) := by
    simp only [csum8_eq_sum] at hs
    simp [csum8_eq_sum, framePre, hs, hl]
  rw [hsum, ← hl]
  exact isValid_frame (by omega)

/-- Settles O8: a valid packet ends with its checksum, which one changed byte breaks and a change that keeps the payload's sum
and length does not. -/
theorem everySingleByteChangeInvalidates : Obligations.EverySingleByteChangeInvalidates := by
  refine ⟨fun s i v hs hi hv => ?_, by decide, fun p q hp hpq => ?_, fun a b c x y d hlen => ?_⟩
  · by_contra hset
    obtain ⟨pre, rfl⟩ := exists_csum8_last hs
    obtain ⟨pre', hpre'⟩ := exists_csum8_last (Bool.eq_true_of_not_eq_false hset)
    exact hv (getElem?_of_set_csum8 hi hpre')
  · exact isValid_replace_payload hp hpq.length_eq.symm (by rw [csum8_eq_sum, csum8_eq_sum, hpq.sum_eq])
  · refine isValid_replace_payload hlen (by simp) ?_
    simp only [csum8_eq_sum, List.sum_append, List.sum_cons]
    ring

end Sys2Proof.Machine

/-! PROOFS. Operand encoders and result decoders (spec/30_encoding.md R102, R105, R106), the refusal of relay index 0 (R180), and
the acceptance of an exchange op as its row of the command table (R109, R112). -/

namespace Sys2Proof.Machine

/-! ## The relay index -/

theorem relay_toNat_pos {n : RelayIdx} (h : n ≠ 0) : 0 < n.toNat :=
  Nat.pos_of_ne_zero fun h0 => h (BitVec.eq_of_toNat_eq h0)

theorem encRelay_fst (n : RelayIdx) : (encRelay n).1.toNat = (n.toNat - 1) % 256 := by
  simp [encRelay]

theorem encRelay_snd (n : RelayIdx) : (encRelay n).2.toNat = (n.toNat - 1) / 256 := by
  have := n.isLt
  simp only [encRelay, BitVec.toNat_ofNat]
  omega

/-- The pair of bytes 0xFF is index 65536's, which `RELAY` cannot hold. -/
theorem encRelay_ne {n : RelayIdx} (h : n ≠ 0) : encRelay n ≠ (0xFF#8, 0xFF#8) := by
  intro he
  have hpos := relay_toNat_pos h
  have hlt := n.isLt
  have hlo := encRelay_fst n
  have hhi := encRelay_snd n
  simp only [he, BitVec.toNat_ofNat] at hlo hhi
  omega

/-- Settles O9: the two bytes are the low and the high part of `n` - 1, and 0 is refused before it is encoded. -/
theorem relayIndexIsEncodedLittleEndianMinusOne : Obligations.RelayIndexIsEncodedLittleEndianMinusOne := by
  refine ⟨fun n hn => ⟨encRelay_fst n, encRelay_snd n, encRelay_ne hn⟩, by decide, by decide, by decide, by decide,
    fun s h => ?_⟩
  have hrefuse (c sub : Byte) (go : Block → Block) :
      Host.Outcome.next (withBlk s (relayOp sub go (accept c s.blk)))
        = (.next (refusedState c s) : Host.Outcome State Fault Refusal) := by
    rw [relayOp_zero (by exact h), refused_eq]
  exact ⟨hrefuse _ _ _, hrefuse _ _ _, hrefuse _ _ _⟩

/-! ## Result decoders -/

theorem dec10_toNat (hi lo : Byte) : (dec10 hi lo).toNat = hi.toNat % 4 * 256 + lo.toNat := by
  have := lo.isLt
  rw [dec10, BitVec.toNat_ofNat]
  omega

/-- The arithmetic form of R106 is its shift-and-or form on ten bits. -/
theorem dec10_eq_or (hi lo : Byte) : dec10 hi lo = (hi.setWidth 10 <<< 8) ||| lo.setWidth 10 := by
  have hlo : lo.toNat < 2 ^ 8 := lo.isLt
  have hshift : (hi.setWidth 10 <<< 8).toNat = 2 ^ 8 * (hi.toNat % 4) := by
    rw [BitVec.toNat_shiftLeft, BitVec.toNat_setWidth, Nat.shiftLeft_eq]
    omega
  have hlow : (lo.setWidth 10).toNat = lo.toNat := by
    rw [BitVec.toNat_setWidth]
    omega
  apply BitVec.eq_of_toNat_eq
  rw [dec10_toNat, BitVec.toNat_or, hshift, hlow, ← Nat.two_pow_add_eq_or_of_lt hlo]
  omega

/-- Bits 7:2 of the first byte do not matter (R106). -/
theorem dec10_congr {hi hi' : Byte} (lo : Byte) (h : hi'.extractLsb' 0 2 = hi.extractLsb' 0 2) :
    dec10 hi' lo = dec10 hi lo := by
  have hlow : hi'.toNat % 4 = hi.toNat % 4 := by simpa using congrArg BitVec.toNat h
  apply BitVec.eq_of_toNat_eq
  rw [dec10_toNat, dec10_toNat, hlow]

/-- Settles O10: `dec_bool` by its one case, `dec10` by its value as a number. -/
theorem responseDecodersIgnoreTheRightBits : Obligations.ResponseDecodersIgnoreTheRightBits :=
  ⟨rfl, fun _ hb => if_neg hb, fun hi lo => ⟨dec10_toNat hi lo, dec10_eq_or hi lo, fun _ => dec10_congr lo⟩,
    by decide, by decide, by decide⟩

/-! ## Acceptance -/

/-- A device command's start (R151, R157, R158). -/
theorem command_started {c : Byte} {s : State} {p : List Byte} {total : Nat} (hp : p.length ≤ 255) (ht : total < 512) :
    Started c p total s (withBlk s (startXchg total (doBuild (setPayload p (accept c s.blk))))) :=
  startXchg_started (.inr rfl) (setPayload_payload _ hp) (by rw [setPayload_plen, toNat_len (by omega)]; exact hp) ht

/-- A raw op's start, from the payload HOST put in `PBUF` (R159, R160). -/
theorem raw_started {c : Byte} {s : State} {total : Nat} (hp : s.blk.plen.toNat ≤ 255) (ht : total < 512) :
    Started c (payloadBytes s.blk) total s (withBlk s (startXchg total (doBuild (accept c s.blk)))) :=
  startXchg_started (.inl rfl) rfl hp ht

theorem relayOp_started {c sub : Byte} {s : State} {total : Nat} (h : s.blk.relay.toNat ≠ 0) (ht : total < 512) :
    Started c (relayPayload sub s.blk.relay) total s
      (withBlk s (relayOp sub (fun b => startXchg total (doBuild b)) (accept c s.blk))) := by
  have hne : (accept c s.blk).relay ≠ 0 := fun h0 => h (congrArg BitVec.toNat h0)
  rw [relayOp_pos hne]
  exact command_started (by simp [relayPayload]) ht

theorem ofNat_add_toNat (n : Nat) (x : Byte) : BitVec.ofNat 8 (n + x.toNat) = BitVec.ofNat 8 n + x :=
  BitVec.eq_of_toNat_eq (by simp)

/-- The start of an op whose payload carries a constant plus an operand, `p` being its payload (R103, R104). -/
theorem offsetOp_started {c x : Byte} {base : Nat} {s : State} {p : Byte → Block → List Byte} {total : Nat}
    (h : base + x.toNat ≤ 255) (hp : ∀ sub b, (p sub b).length ≤ 255) (ht : total < 512) :
    Started c (p (BitVec.ofNat 8 base + x) (accept c s.blk)) total s
      (withBlk s (offsetOp base x (fun sub b => startXchg total (doBuild (setPayload (p sub b) b))) (accept c s.blk))) := by
  rw [offsetOp_fits h, ofNat_add_toNat]
  exact command_started (hp _ _) ht

/-- An exchange op whose operands its guard accepts starts with its row of the command table (R109, R151). -/
theorem exec_started {i : Instr} {s : State} {p : List Byte} {total : Nat}
    (h : requestOf s.cfg s.blk i = some (p, total)) :
    ∃ t, exec i s = .next t ∧ Started (encode i) p total s t := by
  cases i with
  | nop | csum | build | check | payld | clrstale | sreset => cases h
  | rawcmd =>
    obtain ⟨hp, hrow⟩ := Option.ite_none_right_eq_some.1 h
    cases hrow
    exact ⟨_, rfl, by rw [guardPlen_of_le (by exact hp)]; exact raw_started hp (by decide)⟩
  | rawrd =>
    obtain ⟨hp, hrow⟩ := Option.ite_none_right_eq_some.1 h
    cases hrow
    have := s.blk.nreq.isLt
    exact ⟨_, rfl, by rw [guardPlen_of_le (by exact hp)]; exact raw_started hp (by omega)⟩
  | rlyon | rlyoff | rlyget =>
    obtain ⟨hn, hrow⟩ := Option.ite_none_left_eq_some.1 h
    cases hrow
    exact ⟨_, rfl, relayOp_started hn (by decide)⟩
  | bnkset | bnkget | ad8all | ad10all => cases h; exact ⟨_, rfl, command_started (by simp) (by decide)⟩
  | brlyon =>
    obtain ⟨hx, hrow⟩ := Option.ite_none_right_eq_some.1 h
    obtain ⟨rfl, rfl⟩ : p = brlyonPayload s.cfg.brlyonForm (107#8 + s.blk.index) s.blk.bank ∧ total = 4 := by
      cases hf : s.cfg.brlyonForm <;> rw [hf] at hrow <;> cases hrow <;> exact ⟨rfl, rfl⟩
    exact ⟨_, rfl, offsetOp_started (p := fun sub b => brlyonPayload s.cfg.brlyonForm sub b.bank) (by omega)
      (fun _ _ => by cases s.cfg.brlyonForm <;> simp [brlyonPayload]) (by decide)⟩
  | brlyoff =>
    obtain ⟨hx, hrow⟩ := Option.ite_none_right_eq_some.1 h
    cases hrow
    exact ⟨_, rfl, offsetOp_started (p := fun sub b => [cmdPrefix, sub, b.bank]) (by omega) (by simp) (by decide)⟩
  | ad8one =>
    obtain ⟨hx, hrow⟩ := Option.ite_none_right_eq_some.1 h
    cases hrow
    exact ⟨_, rfl, offsetOp_started (p := fun sub _ => [cmdPrefix, sub]) (by omega) (by simp) (by decide)⟩
  | ad10one =>
    obtain ⟨hx, hrow⟩ := Option.ite_none_right_eq_some.1 h
    obtain ⟨rfl, rfl⟩ : p = [cmdPrefix, 149#8 + s.blk.chan] ∧ total = ad10oneCount s.cfg.ad10oneNreq + 3 := by
      cases hf : s.cfg.ad10oneNreq <;> rw [hf] at hrow <;> cases hrow <;> exact ⟨rfl, rfl⟩
    exact ⟨_, rfl, offsetOp_started (p := fun sub _ => [cmdPrefix, sub]) (by omega) (by simp)
      (by cases s.cfg.ad10oneNreq <;> decide)⟩

/-! ## Requests that look alike -/

/-- Ops accepted with one payload have built one request (R112). -/
theorem Started.sameRequest {c d : Byte} {p : List Byte} {m n : Nat} {s r t u : State} (ht : Started c p m s t)
    (hu : Started d p n r u) : SameRequest t u :=
  ⟨ht.payload.trans hu.payload.symm, ht.request.trans hu.request.symm⟩

/-- Two ops whose rows have one payload both start, and build one request. -/
theorem exec_sameRequest {i j : Instr} {s r : State} {p : List Byte} {m n : Nat}
    (hi : requestOf s.cfg s.blk i = some (p, m)) (hj : requestOf r.cfg r.blk j = some (p, n)) :
    ∃ t u, exec i s = .next t ∧ exec j r = .next u ∧ SameRequest t u := by
  obtain ⟨t, ht, hst⟩ := exec_started hi
  obtain ⟨u, hu, hsu⟩ := exec_started hj
  exact ⟨t, u, ht, hu, hst.sameRequest hsu⟩

theorem requestOf_ad10one {cfg : Config} {b : Block} (h : b.chan.toNat ≤ 106) :
    ∃ n, requestOf cfg b .ad10one = some ([254#8, 149#8 + b.chan], n) := by
  simp only [requestOf, h, if_true]
  cases cfg.ad10oneNreq <;> exact ⟨_, rfl⟩

/-- R112's last line: `BRLYON`'s bytes are those of the relay index with low part 107 + `INDEX`, high part `BANK`. -/
theorem requestOf_rlyon_of_bank {cfg : Config} {a b : Block} (hx : a.index.toNat ≤ 148)
    (hr : b.relay.toNat = a.bank.toNat * 256 + 107 + a.index.toNat + 1) :
    requestOf cfg b .rlyon = some ([254#8, 48#8, 107#8 + a.index, a.bank], 4) := by
  have hlo : (b.relay.toNat - 1) % 256 = 107 + a.index.toNat := by omega
  have hhi : (b.relay.toNat - 1) / 256 = a.bank.toNat := by omega
  simp only [requestOf, hlo, hhi, ofNat_add_toNat, BitVec.ofNat_toNat, BitVec.setWidth_eq]
  exact if_neg (by omega)

/-- Settles O11: each pair of ops has one payload in the command table. -/
theorem aliasedRequestsAreTheSame : Obligations.AliasedRequestsAreTheSame := by
  refine ⟨fun s hc => ?_, fun s => ?_, fun s hc => ⟨?_, ?_⟩, fun s r hf hx hr => ?_⟩
  · obtain ⟨n, h10⟩ := requestOf_ad10one (cfg := s.cfg) hc
    exact exec_sameRequest (i := .ad8one) (if_pos hc) h10
  · exact exec_sameRequest (i := .ad8all) (j := .ad10all) (s := s) (r := s) rfl rfl
  · have h8 : requestOf s.cfg s.blk .ad8one = some ([254#8, 166#8], 4) := by simp [requestOf, hc]
    exact exec_sameRequest (j := .ad8all) h8 rfl
  · obtain ⟨n, h10⟩ := requestOf_ad10one (cfg := s.cfg) (b := s.blk) (by simp [hc])
    rw [hc] at h10
    exact exec_sameRequest (j := .ad10all) h10 rfl
  · have hb : requestOf s.cfg s.blk .brlyon = some ([254#8, 48#8, 107#8 + s.blk.index, s.blk.bank], 4) := by
      simp [requestOf, hx, hf]
    obtain ⟨t, ht, hst⟩ := exec_started hb
    obtain ⟨u, hu, hsu⟩ := exec_started (requestOf_rlyon_of_bank (cfg := r.cfg) hx hr)
    exact ⟨t, u, ht, hu, hst.sameRequest hsu, BitVec.eq_of_toNat_eq (hst.rxlen.trans hsu.rxlen.symm)⟩

end Sys2Proof.Machine

/-! PROOFS. The finish action of each exchange op as its row of the command table (spec/30_encoding.md R109, spec/41_exchange.md
R154, R157, R158). -/

namespace Sys2Proof.Machine

/-! ## What the decode actions see -/

/-- The number of payload bytes the decode actions of an op look at (R109, last column). -/
def bytesDecoded : Instr → Nat
  | .rlyget | .bnkget | .ad8one => 1
  | .ad10one => 2
  | .ad8all => 8
  | .ad10all => 16
  | _ => 0

theorem doPayload_rlen_toNat {b : Block} (h : b.rxlen.toNat ≤ 258) :
    (doPayload b).rlen.toNat = (payload (responseBytes b)).length := by
  rw [doPayload_rlen, payload_length, responseBytes, readBytes_length, BitVec.toNat_ofNat, Nat.mod_eq_of_lt (by omega)]

/-- Byte `k` of `RESBUF` is byte `k` of the payload once that is copied (R138). -/
theorem resByte_doPayload {b : Block} (h : b.rxlen.toNat ≤ 258) {k : Nat} (hk : k + 3 < b.rxlen.toNat) :
    resByte (doPayload b) k = (payload (responseBytes b)).getD k 0 := by
  have hlt : k < (doPayload b).rlen.toNat := by
    rw [doPayload_rlen, BitVec.toNat_ofNat, Nat.mod_eq_of_lt (by omega)]
    omega
  rw [← doPayload_result h, readBytes_getD _ _ hlt]
  rfl

theorem zext10_toNat (b : Byte) : (zext10 b).toNat = b.toNat := by
  rw [zext10, BitVec.toNat_setWidth]
  omega

/-- Sample `k` of a payload of byte pairs (R106, R204). -/
theorem pairSample_doPayload {b : Block} (h : b.rxlen.toNat ≤ 258) {k : Nat} (hk : 2 * k + 4 < b.rxlen.toNat) :
    (pairSample (doPayload b) k).toNat
      = ((payload (responseBytes b)).getD (2 * k) 0).toNat % 4 * 256
        + ((payload (responseBytes b)).getD (2 * k + 1) 0).toNat := by
  rw [pairSample, dec10_toNat, resByte_doPayload h (by omega), resByte_doPayload h (by omega)]

/-! ## How the finish action ends -/

/-- The end of a read: the payload copied, `RES` and `AD` written (R158). -/
def readDone (b : Block) (r : Byte) (a : Vector Sample 8) : Block := completeOk { doPayload b with res := r, ad := a }

@[simp] theorem readDone_ad (b : Block) (r : Byte) (a : Vector Sample 8) : (readDone b r a).ad = a := rfl

/-- `AD10ONE` with two payload bytes or more is not `SHORT` (R203). -/
theorem finishAd10one_of_le {b : Block} (h : b.rxlen.toNat ≤ 258) (h5 : 5 ≤ b.rxlen.toNat) :
    finishAd10one b = readDone b b.res (b.ad.set 0 (pairSample (doPayload b) 0)) := by
  have hlen : ¬ (doPayload b).rlen.toNat < 2 := by
    rw [doPayload_rlen, BitVec.toNat_ofNat, Nat.mod_eq_of_lt (by omega)]
    omega
  exact if_neg hlen

/-- What the decode actions of an exchange op that ends `OK` leave: an acknowledgment, or the payload copied with `RES` and `AD`
written (R157, R158). -/
theorem finishOp_completes {i : Instr} {b : Block} (hx : isExchange i = true) (hn : bytesDecoded i + 3 ≤ b.rxlen.toNat)
    (h : b.rxlen.toNat ≤ 258) :
    finishOp i b = finishAck b ∨ ∃ r a, finishOp i b = readDone b r a := by
  cases i with
  | nop | csum | build | check | payld | clrstale | sreset => cases hx
  | rawcmd | rlyon | rlyoff | bnkset | brlyon | brlyoff => exact .inl rfl
  | rawrd | rlyget | bnkget | ad8one | ad8all | ad10all => exact .inr ⟨_, _, rfl⟩
  | ad10one => exact .inr ⟨_, _, finishAd10one_of_le h hn⟩

/-- An exchange op that ends `OK`: the outcome, with the response left in `RXBUF` (R130, R154). -/
theorem finishOp_outcome {i : Instr} {b : Block} (hx : isExchange i = true) (hn : bytesDecoded i + 3 ≤ b.rxlen.toNat)
    (h : b.rxlen.toNat ≤ 258) :
    (finishOp i b).phase = .idle ∧ (finishOp i b).status = { b.status with busy := false, done := true, ok := true }
      ∧ (finishOp i b).err = b.err ∧ (finishOp i b).cmd = b.cmd ∧ responseBytes (finishOp i b) = responseBytes b := by
  obtain he | ⟨r, a, he⟩ := finishOp_completes hx hn h <;> rw [he]
  · exact ⟨rfl, rfl, rfl, rfl, rfl⟩
  · exact ⟨rfl, rfl, rfl, rfl,
      responseBytes_congr rfl fun _ => readByte_loadBytes_other (b := .resbuf) (c := .rxbuf) _ _ _ (by decide)⟩

/-- The result of an op that completed is what its registers hold (R30). -/
theorem yields_of_completed {i : Instr} {b : Block} {t : State} (ht : t.blk = completeOk b) (hc : decode b.cmd = .op i) :
    Yields t (opResult i (completeOk b)).res (opResult i (completeOk b)).bytes
      ((opResult i (completeOk b)).ad.map BitVec.toNat) :=
  ⟨opResult i (completeOk b), by rw [ht, resultOf_completeOk, cmdResult_op (by exact hc)], rfl, rfl, rfl⟩

section
variable {i : Instr} {b : Block} {s t : State}

/-- A valid acknowledgment gives no result and leaves the result registers (R157). -/
theorem decoded_ack (hc : decode b.cmd = .op i) (hr : opResult i (finishAck b) = .nothing) (hres : b.res = s.blk.res)
    (had : b.ad = s.blk.ad) (hbuf : ∀ k, readByte b.mem .resbuf k = readByte s.blk.mem .resbuf k)
    (ht : t.blk = finishAck b) : Yields t none [] [] ∧ t.blk.rlen = 0 ∧ ResultsKept s t := by
  have hy := yields_of_completed ht hc
  rw [show opResult i (completeOk { b with rlen := 0 }) = .nothing from hr] at hy
  refine ⟨hy, by rw [ht]; rfl, ?_, ?_, ?_⟩ <;> rw [ht]
  exacts [hres, had, hbuf]

/-- A read's result is the payload, with what the op wrote to `RES` and `AD` (R158). -/
theorem decoded_read {r : Byte} {a : Vector Sample 8} {res : Option Byte} {ad : List Sample} (ht : t.blk = readDone b r a)
    (hr : opResult i (readDone b r a) = payloadResult res ad (readDone b r a)) (hc : decode b.cmd = .op i)
    (h : b.rxlen.toNat ≤ 258) :
    Yields t res (payload (responseBytes b)) (ad.map BitVec.toNat)
      ∧ t.blk.rlen.toNat = (payload (responseBytes b)).length ∧ t.blk.res = r ∧ t.blk.ad = a := by
  have hy := yields_of_completed ht hc
  rw [show completeOk { doPayload b with res := r, ad := a } = readDone b r a from rfl, hr] at hy
  rw [← doPayload_rlen_toNat h, ← doPayload_result h, ht]
  exact ⟨hy, rfl, rfl, rfl⟩

/-- The decode actions of an exchange op give its row's result (R109, last column). -/
theorem decoded_finishOp (hx : isExchange i = true) (hn : bytesDecoded i + 3 ≤ b.rxlen.toNat) (h : b.rxlen.toNat ≤ 258)
    (hc : decode b.cmd = .op i) (hres : b.res = s.blk.res) (had : b.ad = s.blk.ad)
    (hbuf : ∀ k, readByte b.mem .resbuf k = readByte s.blk.mem .resbuf k) (ht : t.blk = finishOp i b) :
    Decoded109 i (payload (responseBytes b)) s t := by
  cases i with
  | nop | csum | build | check | payld | clrstale | sreset => cases hx
  | rawcmd | rlyon | rlyoff | bnkset | brlyon | brlyoff => exact decoded_ack hc rfl hres had hbuf ht
  | rawrd =>
    obtain ⟨hy, hl, hr, ha⟩ := decoded_read ht rfl hc h
    exact ⟨hy, hl, hr.trans hres, ha.trans had⟩
  | rlyget | bnkget | ad8one =>
    obtain ⟨hy, hl, _, ha⟩ := decoded_read ht rfl hc h
    rw [resByte_doPayload h hn] at hy
    exact ⟨hy, hl, ha.trans had⟩
  | ad8all =>
    obtain ⟨hy, hl, hr, _⟩ := decoded_read ht rfl hc h
    have hbyte (k : Nat) (hk : k < 8) : (zext10 (resByte (doPayload b) k)).toNat
        = ((payload (responseBytes b)).getD k 0).toNat := by
      rw [zext10_toNat, resByte_doPayload h (by simp only [bytesDecoded] at hn; omega)]
    refine ⟨?_, hl, hr.trans hres⟩
    simpa [hbyte, List.range_succ] using hy
  | ad10one =>
    rw [finishOp, finishAd10one_of_le h hn] at ht
    obtain ⟨hy, hl, hr, ha⟩ := decoded_read ht rfl hc h
    refine ⟨?_, hl, hr.trans hres, fun k hk => ?_⟩
    · simpa [pairSample_doPayload h (k := 0) hn, samplesOf] using hy
    · rw [ha, ← had]
      exact Vector.getElem_set_ne _ _ fun h0 => hk (Fin.ext h0.symm)
  | ad10all =>
    obtain ⟨hy, hl, hr, _⟩ := decoded_read ht rfl hc h
    refine ⟨?_, hl, hr.trans hres⟩
    have hpair (k : Nat) (hk : k < 8) := pairSample_doPayload h (k := k) (by simp only [bytesDecoded] at hn; omega)
    simpa [hpair, samplesOf, List.range_succ] using hy

end

end Sys2Proof.Machine

/-! PROOFS. Whole runs of an exchange on a stream that accepts every byte and delivers every byte (spec/41_exchange.md R150 to
R154). -/

namespace Sys2Proof.Machine

/-! ## Runs -/

theorem run_succ {s u : State} (k : Nat) (h : step s = .next u) :
    Host.Core.run Sys2Proof.core (k + 1) s = Host.Core.run Sys2Proof.core k u := by
  have hc : Sys2Proof.core.step s = .next u := h
  simp [Host.Core.run, hc]

theorem run_add {m : Nat} {s u : State} (k : Nat) (h : Host.Core.run Sys2Proof.core m s = .next u) :
    Host.Core.run Sys2Proof.core (m + k) s = Host.Core.run Sys2Proof.core k u := by
  induction m generalizing s with
  | zero => cases h; rw [Nat.zero_add]
  | succ m ih =>
    rw [Nat.add_right_comm]
    cases hs : Sys2Proof.core.step s with
    | next s' =>
      rw [run_succ _ hs] at h ⊢
      exact ih h
    | fault r => cases r
    | refused r => simp [Host.Core.run, hs] at h

theorem txAdvance_more {b : Block} (h : b.txcnt + 1 ≠ b.txlen) : txAdvance b = { b with txcnt := b.txcnt + 1 } := by
  unfold txAdvance
  rw [if_neg h]

theorem txAdvance_last {b : Block} (h : b.txcnt + 1 = b.txlen) :
    txAdvance b = { b with txcnt := b.txlen, phase := .rx } := by
  unfold txAdvance
  rw [if_pos h, h]

/-- A `TX` step in which the stream accepts the byte (R152). -/
theorem step_tx_ready {s : State} {rx : RxOffer} {rest : List Turn} (hr : s.rst = false) (hc : s.cancel = false)
    (hp : s.blk.phase = .tx) (ht : s.turns = .fe .ready rx :: rest) :
    step s = .next { s with
      turns := rest, stream := streamWrite s.stream (readByte s.blk.mem .txbuf s.blk.txcnt.toNat),
      blk := txAdvance s.blk } := by
  rw [step_fe hr ht, feStep_tx (by exact hp)]
  simp [txStep, hc]

/-- `TX` on a stream that accepts every byte: what is left of the request is sent, and `RX` begins (R152). -/
theorem run_tx {n : Nat} {s : State} {rest : List Turn} (hr : s.rst = false) (hc : s.cancel = false)
    (hp : s.blk.phase = .tx) (ht : s.turns = List.replicate (n + 1) (.fe .ready .empty) ++ rest)
    (hn : s.blk.txcnt.toNat + (n + 1) = s.blk.txlen.toNat) :
    Host.Core.run Sys2Proof.core (n + 1) s = .next { s with
      turns := rest,
      stream := { s.stream with sent := s.stream.sent ++ readBytes s.blk.mem .txbuf s.blk.txcnt.toNat (n + 1) },
      blk := { s.blk with txcnt := s.blk.txlen, phase := .rx } } := by
  induction n generalizing s with
  | zero =>
    have hlast : s.blk.txcnt + 1 = s.blk.txlen := BitVec.eq_of_toNat_eq (by rw [len_succ (by omega)]; exact hn)
    rw [run_succ _ (step_tx_ready hr hc hp ht), txAdvance_last hlast]
    rfl
  | succ n ih =>
    have hcnt : (s.blk.txcnt + 1).toNat = s.blk.txcnt.toNat + 1 := len_succ (by omega)
    have hmore : s.blk.txcnt + 1 ≠ s.blk.txlen := fun he => by rw [he] at hcnt; omega
    rw [run_succ _ (step_tx_ready hr hc hp ht), txAdvance_more hmore]
    have hbytes : readBytes s.blk.mem .txbuf s.blk.txcnt.toNat (n + 1 + 1)
        = readByte s.blk.mem .txbuf s.blk.txcnt.toNat :: readBytes s.blk.mem .txbuf (s.blk.txcnt + 1).toNat (n + 1) := by
      rw [hcnt]; rfl
    rw [hbytes, List.append_cons]
    exact ih (s := { s with
        turns := List.replicate (n + 1) (.fe .ready .empty) ++ rest,
        stream := streamWrite s.stream (readByte s.blk.mem .txbuf s.blk.txcnt.toNat),
        blk := { s.blk with txcnt := s.blk.txcnt + 1 } }) hr hc hp rfl
      (by show (s.blk.txcnt + 1).toNat + (n + 1) = s.blk.txlen.toNat; omega)

/-- An `RX` step that delivers a byte that is not the last (R153). -/
theorem step_rx_more {s : State} {tx : TxEvent} {v : Byte} {q : List Byte} {rest : List Turn} (hr : s.rst = false)
    (hc : s.cancel = false) (hp : s.blk.phase = .rx) (ht : s.turns = .fe tx .deliver :: rest)
    (hh : s.stream.held = v :: q) (hl : s.blk.rxcnt + 1 ≠ s.blk.rxlen) :
    step s = .next { s with turns := rest, stream := { s.stream with held := q }, blk := stored v s.blk } := by
  rw [step_fe hr ht, feStep_rx (by exact hp)]
  simp only [rxStep, hc, rxEvent, hh, streamTake, rxStore_more hl]
  rfl

/-- The bytes `l` have been stored one after the other from `RXBUF[RXCNT]` on: `m` is the memory, `c` the count then (R153). -/
structure StoredAll (b : Block) (l : List Byte) (m : Memory) (c : Len) : Prop where
  count : c.toNat = b.rxcnt.toNat + l.length
  rxbuf : readBytes m .rxbuf 0 c.toNat = readBytes b.mem .rxbuf 0 b.rxcnt.toNat ++ l
  others : ∀ k i, k ≠ .rxbuf → readByte m k i = readByte b.mem k i

theorem StoredAll.nil (b : Block) : StoredAll b [] b.mem b.rxcnt := ⟨rfl, (List.append_nil _).symm, fun _ _ _ => rfl⟩

theorem StoredAll.cons {b : Block} {v : Byte} {l : List Byte} {m : Memory} {c : Len} (h : StoredAll (stored v b) l m c)
    (hb : b.rxcnt.toNat < 258) : StoredAll b (v :: l) m c := by
  have hcnt : (stored v b).rxcnt.toNat = b.rxcnt.toNat + 1 := len_succ (by omega)
  have hmem : readBytes (stored v b).mem .rxbuf 0 (b.rxcnt.toNat + 1) = readBytes b.mem .rxbuf 0 b.rxcnt.toNat ++ [v] := by
    rw [readBytes_succ, Nat.zero_add]
    show readBytes (writeByte _ _ _ _) _ _ _ ++ [readByte (writeByte _ _ _ _) _ _] = _
    rw [readBytes_writeByte_other _ _ (by omega), readByte_writeByte_same _ .rxbuf _ hb]
  constructor
  case count => rw [h.count, hcnt, List.length_cons]; omega
  case rxbuf => rw [h.rxbuf, hcnt, hmem, List.append_assoc, List.singleton_append]
  case others => exact fun k i hk => (h.others k i hk).trans (readByte_writeByte_other _ _ (by simp [hk]))

/-- `RX` on a stream that delivers a byte in every step, up to the last byte (R153). -/
theorem run_rx {l q : List Byte} {s : State} {rest : List Turn} (hr : s.rst = false) (hc : s.cancel = false)
    (hp : s.blk.phase = .rx) (ht : s.turns = List.replicate l.length (.fe .busy .deliver) ++ rest)
    (hh : s.stream.held = l ++ q) (hl : s.blk.rxcnt.toNat + l.length < s.blk.rxlen.toNat)
    (h258 : s.blk.rxlen.toNat ≤ 258) :
    ∃ m c, StoredAll s.blk l m c ∧ Host.Core.run Sys2Proof.core l.length s = .next { s with
      turns := rest, stream := { s.stream with held := q }, blk := { s.blk with rxcnt := c, mem := m } } := by
  induction l generalizing s with
  | nil =>
    refine ⟨_, _, .nil s.blk, ?_⟩
    obtain rfl : s.turns = rest := ht
    obtain rfl : s.stream.held = q := hh
    rfl
  | cons v l ih =>
    rw [List.length_cons] at hl
    have hcnt : (s.blk.rxcnt + 1).toNat = s.blk.rxcnt.toNat + 1 := len_succ (by omega)
    have hmore : s.blk.rxcnt + 1 ≠ s.blk.rxlen := fun he => by rw [he] at hcnt; omega
    rw [List.length_cons, run_succ _ (step_rx_more hr hc hp ht hh hmore)]
    obtain ⟨m, c, hm, hrun⟩ := ih (s := { s with
        turns := List.replicate l.length (.fe .busy .deliver) ++ rest, stream := { s.stream with held := l ++ q },
        blk := stored v s.blk }) hr hc hp rfl rfl
      (by show (s.blk.rxcnt + 1).toNat + _ < s.blk.rxlen.toNat; omega) h258
    exact ⟨m, c, hm.cons (by omega), hrun⟩

/-- An exchange from its start up to its last byte, the stream accepting and delivering a byte in every step: `m` is the memory
then, `c` the number of bytes received. -/
def awaitsLast (t : State) (p q : List Byte) (rest : List Turn) (m : Memory) (c : Len) : State :=
  { t with
    turns := rest, stream := { sent := t.stream.sent ++ frame p, held := q },
    blk := { t.blk with txcnt := t.blk.txlen, phase := .rx, rxcnt := c, mem := m } }

theorem Started.run_to_last {c : Byte} {p l q : List Byte} {total : Nat} {s t : State} {rest : List Turn}
    (h : Started c p total s t) (hr : t.rst = false) (hc : t.cancel = false)
    (ht : t.turns = List.replicate (p.length + 3) (.fe .ready .empty)
      ++ (List.replicate l.length (.fe .busy .deliver) ++ rest))
    (hh : t.stream.held = l ++ q) (hl : l.length < total) (h258 : total ≤ 258) :
    ∃ m k, StoredAll t.blk l m k
      ∧ Host.Core.run Sys2Proof.core (p.length + 3 + l.length) t = .next (awaitsLast t p q rest m k) := by
  obtain ⟨htx0, hrx0⟩ := h.counts
  have hsent : readBytes t.blk.mem .txbuf t.blk.txcnt.toNat (p.length + 3) = frame p := by
    rw [← h.request, requestBytes, h.txlen, htx0]; rfl
  rw [run_add _ (run_tx (n := p.length + 2) hr hc h.phase ht (by rw [htx0, h.txlen]; simp)), hsent]
  have hroom : t.blk.rxcnt.toNat + l.length < t.blk.rxlen.toNat := by rw [h.rxlen, hrx0]; simpa using hl
  have hfits : t.blk.rxlen.toNat ≤ 258 := by rw [h.rxlen]; exact h258
  obtain ⟨m, k, hm, hrun⟩ := run_rx (s := { t with
      turns := List.replicate l.length (.fe .busy .deliver) ++ rest,
      stream := { t.stream with sent := t.stream.sent ++ frame p },
      blk := { t.blk with txcnt := t.blk.txlen, phase := .rx } }) hr hc rfl rfl hh hroom hfits
  exact ⟨m, k, ⟨hm.count, hm.rxbuf, hm.others⟩, hrun⟩

/-- The next step of that state receives the last byte. -/
theorem Started.lastByte {c v : Byte} {p l more : List Byte} {s t : State} {rest : List Turn} {m : Memory} {k : Len}
    (h : Started c p (l.length + 1) s t) (hr : t.rst = false) (hc : t.cancel = false) (hm : StoredAll t.blk l m k)
    (h258 : l.length + 1 ≤ 258) :
    LastByte (awaitsLast t p (v :: more) (.fe .busy .deliver :: rest) m k) v
      ∧ received (awaitsLast t p (v :: more) (.fe .busy .deliver :: rest) m k) v = l ++ [v] := by
  have hk : k.toNat = l.length := by rw [hm.count, h.counts.2]; exact Nat.zero_add _
  have hrx : t.blk.rxlen.toNat = l.length + 1 := h.rxlen
  refine ⟨⟨hr, hc, rfl, ⟨_, _, rfl⟩, ⟨_, rfl⟩, ?_, ?_⟩, ?_⟩
  · show k.toNat + 1 = t.blk.rxlen.toNat
    rw [hk, hrx]
  · show t.blk.rxlen.toNat ≤ 258
    rw [hrx]; exact h258
  · show readBytes m .rxbuf 0 k.toNat ++ [v] = l ++ [v]
    rw [hm.rxbuf, h.counts.2]; rfl

/-! ## The whole exchange -/

/-- A row of the command table is an exchange op's, and its response holds the bytes the decode actions look at (R109). -/
theorem requestOf_row {cfg : Config} {b : Block} {i : Instr} {p : List Byte} {total : Nat}
    (h : requestOf cfg b i = some (p, total)) (hn : i = .ad10one → cfg.ad10oneNreq = .two) :
    isExchange i = true ∧ bytesDecoded i + 3 ≤ total := by
  cases i with
  | nop | csum | build | check | payld | clrstale | sreset => cases h
  | bnkset | bnkget | ad8all | ad10all => cases h; exact ⟨rfl, by decide⟩
  | rlyon | rlyoff | rlyget =>
    obtain ⟨_, hrow⟩ := Option.ite_none_left_eq_some.1 h
    cases hrow
    exact ⟨rfl, by decide⟩
  | rawcmd | brlyoff | ad8one =>
    obtain ⟨_, hrow⟩ := Option.ite_none_right_eq_some.1 h
    cases hrow
    exact ⟨rfl, by decide⟩
  | rawrd =>
    obtain ⟨_, hrow⟩ := Option.ite_none_right_eq_some.1 h
    cases hrow
    exact ⟨rfl, Nat.add_le_add_right (Nat.zero_le _) 3⟩
  | brlyon =>
    obtain ⟨_, hrow⟩ := Option.ite_none_right_eq_some.1 h
    cases hf : cfg.brlyonForm <;> rw [hf] at hrow <;> cases hrow <;> exact ⟨rfl, by decide⟩
  | ad10one =>
    obtain ⟨_, hrow⟩ := Option.ite_none_right_eq_some.1 h
    rw [hn rfl] at hrow
    cases hrow
    exact ⟨rfl, by decide⟩

/-- The step of the last byte of a valid response: `finishOp` on the stored response (R153, R154). -/
theorem LastByte.step_valid {s : State} {v : Byte} {i : Instr} (h : LastByte s v) (hv : isValid (received s v) = true)
    (hc : decode s.blk.cmd = .op i) :
    step s = .next (afterLast s (finishOp i (doCheck (lastBlock s v)))) := by
  rw [h.step_eq, finish_valid (by rw [h.response]; exact hv) (by exact hc)]

/-- The block that the finish action of such an exchange is run on, with the flags of its response. -/
def checkedBlock (t : State) (v : Byte) (p more : List Byte) (rest : List Turn) (m : Memory) (k : Len) : Block :=
  doCheck (lastBlock (awaitsLast t p (v :: more) (.fe .busy .deliver :: rest) m k) v)

/-- A started exchange run to its end, the response `l ++ [v]` being valid. -/
theorem Started.run_exchange {i : Instr} {v : Byte} {p l more : List Byte} {s t : State} {rest : List Turn}
    (h : Started (encode i) p (l.length + 1) s t) (hr : t.rst = false) (hc : t.cancel = false)
    (ht : t.turns = List.replicate (p.length + 3) (.fe .ready .empty)
      ++ (List.replicate (l.length + 1) (.fe .busy .deliver) ++ rest))
    (hh : t.stream.held = l ++ [v] ++ more) (hv : isValid (l ++ [v]) = true) :
    ∃ m k, StoredAll t.blk l m k ∧ responseBytes (checkedBlock t v p more rest m k) = l ++ [v]
      ∧ Host.Core.run Sys2Proof.core (p.length + 3 + (l.length + 1)) t = .next { t with
          turns := rest, stream := { sent := t.stream.sent ++ frame p, held := more },
          blk := finishOp i (checkedBlock t v p more rest m k) } := by
  have h258 : l.length + 1 ≤ 258 := by simpa using (isValid_length hv).2
  have hturns : t.turns = List.replicate (p.length + 3) (.fe .ready .empty)
      ++ (List.replicate l.length (.fe .busy .deliver) ++ .fe .busy .deliver :: rest) := by
    rw [ht, List.append_cons (as := List.replicate l.length _), List.replicate_succ' (n := l.length)]
  obtain ⟨m, k, hm, hrun⟩ := h.run_to_last hr hc hturns (by rw [hh, ← List.append_cons]) (Nat.lt_succ_self _) h258
  obtain ⟨hlast, hresp⟩ := h.lastByte (v := v) (more := more) (rest := rest) hr hc hm h258
  have hend := hlast.step_valid (by rw [hresp]; exact hv) (show decode t.blk.cmd = .op i by rw [h.cmd, decode_encode])
  refine ⟨m, k, hm, hlast.response.trans hresp, ?_⟩
  rw [← Nat.add_assoc, run_add 1 hrun, run_succ 0 hend]
  rfl

section
variable {i : Instr} {v : Byte} {p l more : List Byte} {s t : State} {rest : List Turn} {m : Memory} {k : Len}

/-- How such an exchange ends: with `OK`, its response in `RXBUF` (R130, R154). -/
theorem Started.outcome (h : Started (encode i) p (l.length + 1) s t) (hx : isExchange i = true)
    (hn : bytesDecoded i + 3 ≤ l.length + 1) (h258 : l.length + 1 ≤ 258)
    (hresp : responseBytes (checkedBlock t v p more rest m k) = l ++ [v]) :
    (finishOp i (checkedBlock t v p more rest m k)).phase = .idle
      ∧ (finishOp i (checkedBlock t v p more rest m k)).status = { s.blk.status with busy := false, done := true, ok := true }
      ∧ (finishOp i (checkedBlock t v p more rest m k)).err = .none
      ∧ (finishOp i (checkedBlock t v p more rest m k)).cmd = encode i
      ∧ responseBytes (finishOp i (checkedBlock t v p more rest m k)) = l ++ [v] := by
  have hrx : (checkedBlock t v p more rest m k).rxlen.toNat = l.length + 1 := h.rxlen
  obtain ⟨hphase, hstatus, herr, hcmd, hkept⟩ :=
    finishOp_outcome (b := checkedBlock t v p more rest m k) hx (by rw [hrx]; exact hn) (by rw [hrx]; exact h258)
  refine ⟨hphase, ?_, herr.trans h.noError.1, hcmd.trans h.cmd, hkept.trans hresp⟩
  rw [hstatus]
  show { t.blk.status with busy := false, done := true, ok := true } = _
  rw [h.status]

/-- What such an exchange leaves in the result registers, against any state with the block it started from (R109). -/
theorem Started.decoded (h : Started (encode i) p (l.length + 1) s t) (hx : isExchange i = true)
    (hn : bytesDecoded i + 3 ≤ l.length + 1) (h258 : l.length + 1 ≤ 258) (hm : StoredAll t.blk l m k)
    (hresp : responseBytes (checkedBlock t v p more rest m k) = l ++ [v]) {s' t' : State} (hs : s'.blk = s.blk)
    (ht : t'.blk = finishOp i (checkedBlock t v p more rest m k)) : Decoded109 i (Machine.payload (l ++ [v])) s' t' := by
  have hrx : (checkedBlock t v p more rest m k).rxlen.toNat = l.length + 1 := h.rxlen
  obtain ⟨hres, -, had⟩ := h.results
  rw [← hs] at hres had
  rw [← hresp]
  refine decoded_finishOp hx (by rw [hrx]; exact hn) (by rw [hrx]; exact h258) ?_ hres had (fun j => ?_) ht
  · show decode t.blk.cmd = .op i
    rw [h.cmd, decode_encode]
  · rw [hs, ← h.resbuf j, ← hm.others .resbuf j (by decide)]
    exact readByte_writeByte_other _ _ (by simp)

end

/-- Settles O41: the op starts with its row, its exchange runs to the last byte, and the finish action decodes the response. -/
theorem friendlyExchangeSendsTheRowAndDecodesIt : Obligations.FriendlyExchangeSendsTheRowAndDecodesIt := by
  intro i s p resp more total hs rest hreq hnreq hr hc hb hh ht hheld hlen hv
  obtain ⟨hx, hn⟩ := requestOf_row hreq hnreq
  obtain ⟨h3, h258⟩ := isValid_length hv
  rw [hlen] at h258
  obtain ⟨l, v, rfl⟩ : ∃ l v, resp = l ++ [v] :=
    ⟨_, _, (List.dropLast_concat_getLast (List.ne_nil_of_length_pos (by omega))).symm⟩
  obtain rfl : l.length + 1 = total := by simpa using hlen
  obtain ⟨t, hexec, hst⟩ := exec_started (s := { s with
    turns := List.replicate (p.length + 3) (.fe .ready .empty)
      ++ (List.replicate (l.length + 1) (.fe .busy .deliver) ++ rest), host := hs }) hreq
  obtain ⟨-, hcancel, hrst, hstream, -⟩ : t.cfg = s.cfg ∧ t.cancel = s.cancel ∧ t.rst = s.rst ∧ t.stream = s.stream
      ∧ t.reads = s.reads ∧ t.readCount = s.readCount := by simpa [outside] using hst.outside
  have hstart : step s = .next t := by
    rw [step_startsOp hr hb ht hh (by rw [BitVec.ofNat_toNat, BitVec.setWidth_eq, decode_encode]), hexec]
  obtain ⟨m, k, hm, hresp, hrun⟩ :=
    hst.run_exchange (hrst.trans hr) (hcancel.trans hc) hst.toCome.2 (by rw [hstream, hheld]) hv
  obtain ⟨hphase, hstatus, herr, hcmd, hkept⟩ := hst.outcome hx hn h258 hresp
  rw [Nat.add_assoc, Nat.add_comm 1]
  exact ⟨_, (run_succ _ hstart).trans hrun, hphase, hstatus, herr, hcmd, by rw [hstream], rfl, hkept,
    hst.decoded hx hn h258 hm hresp rfl rfl, hst.toCome.1, rfl⟩

end Sys2Proof.Machine

/-! PROOFS. The codec ops (spec/40_codec.md): `CSUM`, `BUILD`, `CHECK` and `PAYLD` as equations, one per branch of their guards,
and the round trip of R141 from R100. -/

namespace Sys2Proof.Machine

/-! ## A pure op's result -/

/-- A pure op's result is what the block it completes on holds (R30, R130). -/
theorem yields_completedState (i : Instr) (s : State) (b : Block) :
    Yields (completedState (encode i) s b) (opResult i b).res (opResult i b).bytes ((opResult i b).ad.map BitVec.toNat) := by
  have hkept : opResult i (completeOk (accept (encode i) b)) = opResult i b := by cases i <;> rfl
  rw [← hkept]
  exact yields_of_completed rfl (decode_encode i)

/-! ## The payload-length guard -/

theorem exec_guardPlen_of_gt {c : Byte} {s : State} {go : Block → Block} (h : 255 < s.blk.plen.toNat) :
    withBlk s (guardPlen go (accept c s.blk)) = refusedState c s := by
  rw [guardPlen_of_gt (by exact h), refused_eq]

theorem exec_guardPlen_of_le {c : Byte} {s : State} {go : Block → Block} (h : s.blk.plen.toNat ≤ 255) :
    withBlk s (guardPlen go (accept c s.blk)) = withBlk s (go (accept c s.blk)) := by
  rw [guardPlen_of_le (by exact h)]

/-! ## `CSUM` and `BUILD` -/

theorem exec_csum_of_le {s : State} (h : s.blk.plen.toNat ≤ 255) :
    exec .csum s = .next (completedState 0x01#8 s { s.blk with res := csum8 (payloadBytes s.blk), rlen := 0 }) :=
  congrArg Host.Outcome.next (exec_guardPlen_of_le h)

/-- Settles O15, by the two branches of the payload-length guard. -/
theorem csumPutsTheChecksumInRes : Obligations.CsumPutsTheChecksumInRes := by
  refine ⟨fun s h => ⟨_, exec_csum_of_le h, rfl, yields_completedState .csum s _⟩,
    fun s h => congrArg Host.Outcome.next (exec_guardPlen_of_gt h), rfl, ?_, by decide⟩
  rw [csum8_eq_sum, List.sum_replicate]
  rfl

theorem exec_build_of_le {s : State} (h : s.blk.plen.toNat ≤ 255) :
    exec .build s = .next (completedState 0x02#8 s { doBuild s.blk with rlen := 0 }) :=
  congrArg Host.Outcome.next (exec_guardPlen_of_le h)

/-- Settles O16, by the two branches of the payload-length guard; the build action writes no buffer but `TXBUF`. -/
theorem buildPutsTheFrameInTxbuf : Obligations.BuildPutsTheFrameInTxbuf :=
  ⟨fun s h => ⟨_, exec_build_of_le h, doBuild_request h, toNat_len (by omega), rfl,
      fun _ _ hb => readByte_loadBytes_other _ _ _ hb⟩,
    fun s h => congrArg Host.Outcome.next (exec_guardPlen_of_gt h), by decide, by decide⟩

/-! ## `CHECK` -/

theorem responseBytes_length (b : Block) : (responseBytes b).length = b.rxlen.toNat := readBytes_length ..

theorem checkFlags_of_lt {s : List Byte} (h : s.length < 3) : checkFlags s = VFlags.clear := if_pos h

/-- The flags of a sequence of at least 3 bytes: the three comparisons of R135, and `VALID` their conjunction. -/
theorem checkFlags_of_le {s : List Byte} (h : 3 ≤ s.length) :
    (checkFlags s).size = true
    ∧ ((checkFlags s).hs = true ↔ s.getD 0 0 = handshake)
    ∧ ((checkFlags s).len = true ↔ (s.getD 1 0).toNat = s.length - 3)
    ∧ ((checkFlags s).chk = true ↔ s.getD (s.length - 1) 0 = csum8 (s.take (s.length - 1)))
    ∧ ((checkFlags s).valid = true ↔
        (checkFlags s).hs = true ∧ (checkFlags s).len = true ∧ (checkFlags s).chk = true) := by
  unfold checkFlags
  rw [if_neg (Nat.not_lt.2 h)]
  exact ⟨rfl, decide_eq_true_iff, decide_eq_true_iff, decide_eq_true_iff, by simp [and_assoc]⟩

theorem exec_check_of_le {s : State} (h : s.blk.rxlen.toNat ≤ 258) :
    exec .check s
      = .next (completedState 0x03#8 s { s.blk with rlen := 0, vflags := checkFlags (responseBytes s.blk) }) :=
  congrArg (fun b => Host.Outcome.next (withBlk s b)) (if_neg (Nat.not_lt.2 h))

theorem exec_check_of_gt {s : State} (h : 258 < s.blk.rxlen.toNat) :
    exec .check s = .next (refusedState 0x03#8 { s with blk := { s.blk with vflags := VFlags.clear } }) := by
  rw [← refused_eq]
  exact congrArg (fun b => Host.Outcome.next (withBlk s b)) (if_pos h)

/-- Settles O17: the flags are those of the bytes of `RXBUF`, below 3 of them and from 3 on. -/
theorem checkSetsTheFiveFlags : Obligations.CheckSetsTheFiveFlags := by
  refine ⟨fun s h => ⟨_, exec_check_of_le h, by rw [checkFlags_valid]; rfl, fun h3 => ?_, fun h3 => ?_⟩,
    fun _ h => exec_check_of_gt h⟩
  · exact checkFlags_of_lt (by rwa [responseBytes_length])
  · have hflags := checkFlags_of_le (s := responseBytes s.blk) (by rwa [responseBytes_length])
    rwa [responseBytes, readBytes_length, readBytes_getD _ _ (by omega), readBytes_getD _ _ (by omega),
      readBytes_getD _ _ (by omega), readBytes_take _ _ _ (by omega)] at hflags

/-! ## `PAYLD` -/

theorem exec_payld_of_valid {s : State} (h : s.blk.vflags.valid = true) :
    exec .payld s = .next (completedState 0x04#8 s (doPayload s.blk)) :=
  congrArg (fun b => Host.Outcome.next (withBlk s b)) (if_pos h)

theorem exec_payld_of_not_valid {s : State} (h : s.blk.vflags.valid = false) :
    exec .payld s = .next (refusedState 0x04#8 s) := by
  rw [← refused_eq]
  exact congrArg (fun b => Host.Outcome.next (withBlk s b)) (if_neg (by simp [h]))

/-- With `VALID` = 1 the response fits `RXBUF` (R33, R98). -/
theorem TrustOk.rxlen_le {b : Block} (ht : TrustOk b) (hv : b.vflags.valid = true) : b.rxlen.toNat ≤ 258 := by
  rw [← responseBytes_length]
  exact (isValid_length (ht.valid_now hv)).2

/-- Settles O18, by the two branches of the validity guard; the copied payload is that of a response of at most 258 bytes. -/
theorem payldCopiesTheValidatedPayload : Obligations.PayldCopiesTheValidatedPayload := by
  refine ⟨fun s ht hv => ⟨_, exec_payld_of_valid hv, ?_, ?_, rfl, fun _ _ hb => readByte_loadBytes_other _ _ _ hb⟩,
    fun _ hv => exec_payld_of_not_valid hv⟩
  · show (doPayload s.blk).rlen.toNat = _
    rw [doPayload_rlen_toNat (ht.rxlen_le hv), payload_length, responseBytes_length]
  · rw [← responseBytes, ← doPayload_result (ht.rxlen_le hv)]
    exact yields_completedState .payld s _

/-! ## The round trip -/

/-- Settles O20: the response is a frame, which is valid, and whose payload is the one it was built from (R100). -/
theorem codecOpsRoundTrip : Obligations.CodecOpsRoundTrip := by
  intro s hp
  obtain ⟨t, hbuild, hframe, htxlen, -⟩ := buildPutsTheFrameInTxbuf.1 s hp
  refine ⟨t, hbuild, fun u hlen hcopy => ?_⟩
  have hrxlen : u.blk.rxlen.toNat = s.blk.plen.toNat + 3 := by rw [hlen, htxlen]
  have hresponse : responseBytes u.blk = frame (readBytes s.blk.mem .pbuf 0 s.blk.plen.toNat) := by
    rw [responseBytes, hcopy, htxlen, hframe]
  have hvalid : (checkFlags (responseBytes u.blk)).valid = true := by
    rw [checkFlags_valid, hresponse, isValid_frame (by simpa using hp)]
  refine ⟨_, exec_check_of_le (by omega), hvalid, ?_⟩
  obtain ⟨w, hpayld, hrlen, hyields, hw, -⟩ := payldCopiesTheValidatedPayload.1
    (completedState 0x03#8 u { u.blk with rlen := 0, vflags := checkFlags (responseBytes u.blk) }) (.of_checked rfl) hvalid
  refine ⟨w, hpayld, by rw [hw]; rfl, ?_, ?_⟩
  · rw [hrlen]
    show u.blk.rxlen.toNat - 3 = _
    omega
  · rw [← payload_frame (readBytes s.blk.mem .pbuf 0 s.blk.plen.toNat), ← hresponse]
    exact hyields

end Sys2Proof.Machine

/-! PROOFS. The acceptance of the raw ops, and an FE step of an op in flight that does not receive the last byte
(spec/41_exchange.md R151 to R153, R159, R160, spec/60_exceptions.md R236, R240). -/

namespace Sys2Proof.Machine

/-! ## The raw ops -/

/-- Building the request leaves the payload HOST put in `PBUF` (R132). -/
theorem readByte_doBuild_pbuf (b : Block) (i : Nat) : readByte (doBuild b).mem .pbuf i = readByte b.mem .pbuf i :=
  readByte_loadBytes_other (b := .txbuf) (c := .pbuf) _ _ _ (by decide)

/-- Settles O21, by the two branches of the payload-length guard; the start writes no buffer but `TXBUF`. -/
theorem rawOpsStartWithPbuf : Obligations.RawOpsStartWithPbuf := by
  refine ⟨fun s h => ⟨?_, ?_⟩, fun s h => ⟨?_, ?_⟩⟩
  · exact ⟨_, congrArg Host.Outcome.next (exec_guardPlen_of_le h), raw_started h (by decide), rfl,
      readByte_doBuild_pbuf _⟩
  · have hnreq := s.blk.nreq.isLt
    exact ⟨_, congrArg Host.Outcome.next (exec_guardPlen_of_le h), raw_started h (by omega), rfl,
      readByte_doBuild_pbuf _⟩
  · exact congrArg Host.Outcome.next (exec_guardPlen_of_gt h)
  · exact congrArg Host.Outcome.next (exec_guardPlen_of_gt h)

/-! ## An exchange cut short -/

/-- The block after an exchange op was cut short with `k`, `STALE` being set if a byte was sent (R236). -/
def cutShort (k : ErrKind) (info : Nat) (b : Block) : Block :=
  { b with
    err := k, errinfo := info, rlen := 0, phase := .idle,
    status := { b.status with
      busy := false, done := true, ok := false, stale := b.status.stale || decide (0 < b.txcnt.toNat) } }

theorem raise_timeout {b : Block} (hx : isExchangeCode b.cmd = true) : raise .timeout 0 b = cutShort .timeout 0 b := by
  rw [raise, setsStale_exchange hx (.inl rfl)]
  rfl

theorem raise_io {b : Block} (hx : isExchangeCode b.cmd = true) (e : Nat) : raise .io e b = cutShort .io e b := by
  rw [raise, setsStale_exchange hx (.inr rfl)]
  rfl

section
variable {s : State} {tx : TxEvent} {rx : RxOffer} {rest : List Turn}

/-- An FE step of an op in flight looks at `cancel` first (R239, R240). -/
theorem feStep_cancel (hp : s.blk.phase ≠ .idle) (hc : s.cancel = true) :
    feStep tx rx s = withBlk s (raise .timeout 0 s.blk) := by
  cases h : s.blk.phase with
  | idle => exact absurd h hp
  | tx => rw [feStep_tx h]; simp [txStep, hc]
  | rx => rw [feStep_rx h]; simp [rxStep, hc]

/-- Then it looks at a stream error on the channel in use (R66, R240). -/
theorem feStep_error {e : Nat} (hp : (s.blk.phase = .tx ∧ tx = .err e) ∨ (s.blk.phase = .rx ∧ rx = .err e))
    (hc : s.cancel = false) : feStep tx rx s = withBlk s (raise .io (errBits s.cfg e) s.blk) := by
  obtain ⟨hp, rfl⟩ | ⟨hp, rfl⟩ := hp
  · simp [feStep_tx hp, txStep, hc]
  · simp [feStep_rx hp, rxStep, hc, rxEvent]

theorem step_cancelled (hr : s.rst = false) (ht : s.turns = .fe tx rx :: rest) (hx : isExchangeCode s.blk.cmd = true)
    (hp : s.blk.phase ≠ .idle) (hc : s.cancel = true) :
    step s = .next { s with turns := rest, blk := cutShort .timeout 0 s.blk } := by
  rw [step_fe hr ht, feStep_cancel (by exact hp) (by exact hc), ← raise_timeout hx]
  rfl

theorem step_streamError {e : Nat} (hr : s.rst = false) (ht : s.turns = .fe tx rx :: rest)
    (hx : isExchangeCode s.blk.cmd = true)
    (hp : (s.blk.phase = .tx ∧ tx = .err e) ∨ (s.blk.phase = .rx ∧ rx = .err e)) (hc : s.cancel = false)
    (he : e < 2 ^ s.cfg.ioErrW) : step s = .next { s with turns := rest, blk := cutShort .io e s.blk } := by
  have hbits : errBits s.cfg e = e := Nat.mod_eq_of_lt he
  rw [step_fe hr ht, feStep_error (by exact hp) (by exact hc), ← raise_io hx, ← hbits]
  simp [errBits, withBlk]

end

/-! ## A step that goes on -/

/-- A `TX` step with the stream busy (R152). -/
theorem step_tx_busy {s : State} {rx : RxOffer} {rest : List Turn} (hr : s.rst = false) (hc : s.cancel = false)
    (hp : s.blk.phase = .tx) (ht : s.turns = .fe .busy rx :: rest) : step s = .next { s with turns := rest } := by
  rw [step_fe hr ht, feStep_tx (by exact hp)]
  simp [txStep, hc]

/-- An `RX` step that meets no byte (R68, R153). -/
theorem step_rx_empty {s : State} {tx : TxEvent} {rx : RxOffer} {rest : List Turn} (hr : s.rst = false)
    (hc : s.cancel = false) (hp : s.blk.phase = .rx) (ht : s.turns = .fe tx rx :: rest)
    (he : rx = .empty ∨ (rx = .deliver ∧ s.stream.held = [])) : step s = .next { s with turns := rest } := by
  rw [step_fe hr ht, feStep_rx (by exact hp)]
  obtain rfl | ⟨rfl, hh⟩ := he
  · simp [rxStep, hc, rxEvent]
  · simp [rxStep, hc, rxEvent, hh]

/-- Settles O27: the tests of a `TX` step in their order. -/
theorem txStepSendsOneByteOrEnds : Obligations.TxStepSendsOneByteOrEnds := by
  intro s tx rx rest hr hp hx ht
  refine ⟨fun hc => step_cancelled hr ht hx (by simp [hp]) hc,
    fun e hc htx he => step_streamError hr ht hx (.inl ⟨hp, htx⟩) hc he, ?_, ?_⟩
  · rintro hc rfl
    rw [step_tx_ready hr hc hp ht, txAdvance, hp]
    rfl
  · rintro hc rfl
    exact step_tx_busy hr hc hp ht

/-- Settles O28: the tests of an `RX` step in their order; the byte received is the one byte written. -/
theorem rxStepStoresOneByteOrEnds : Obligations.RxStepStoresOneByteOrEnds := by
  intro s tx rx rest hr hp hx ht
  refine ⟨fun hc => step_cancelled hr ht hx (by simp [hp]) hc,
    fun e hc hrx he => step_streamError hr ht hx (.inr ⟨hp, hrx⟩) hc he, ?_,
    fun hc he => step_rx_empty hr hc hp ht he⟩
  rintro v q hc rfl hh hl h258
  have hmore : s.blk.rxcnt + 1 ≠ s.blk.rxlen := fun he => by
    rw [← he, len_succ (by omega)] at hl
    omega
  have hroom : s.blk.rxcnt.toNat < bufCap .rxbuf := by simp only [bufCap]; omega
  exact ⟨_, step_rx_more hr hc hp ht hh hmore, readByte_writeByte_same _ _ _ hroom,
    fun _ _ hb => readByte_writeByte_other _ _ hb⟩

end Sys2Proof.Machine

/-! PROOFS. The step of the last response byte (spec/41_exchange.md R153, R154, R157 to R160): what it leaves whatever the
verdict, and each verdict. -/

namespace Sys2Proof.Machine

/-! ## What the finish action leaves alone -/

/-- What the finish action does not name (R154). -/
theorem FinishCase.frame {b t : Block} (h : FinishCase b t) :
    t.cmd = b.cmd ∧ t.txcnt = b.txcnt ∧ t.rxcnt = b.rxcnt ∧ t.txlen = b.txlen ∧ t.rxlen = b.rxlen
    ∧ ∀ k i, k ≠ .resbuf → readByte t.mem k i = readByte b.mem k i := by
  cases h with
  | invalid _ h | short _ h | ack _ h | other _ _ h => rw [h]; exact ⟨rfl, rfl, rfl, rfl, rfl, fun _ _ _ => rfl⟩
  | read _ _ _ h => rw [h]; exact ⟨rfl, rfl, rfl, rfl, rfl, fun _ _ hk => readByte_loadBytes_other _ _ _ hk⟩

theorem FinishCase.done {b t : Block} (h : FinishCase b t) : t.status.done = true := by
  cases h with
  | invalid _ h | short _ h | ack _ h | other _ _ h | read _ _ _ h => rw [h]; rfl

/-- The verdict of the finish action: `OK` only on a valid response (R154, R155). -/
theorem FinishCase.verdict {b t : Block} (h : FinishCase b t) :
    (isValid (Machine.responseBytes b) = true ∧ t.status.ok = true)
      ∨ (t.status.ok = false ∧ (t.err = .invalid ∨ t.err = .short)) := by
  cases h with
  | invalid _ h => rw [h]; exact .inr ⟨rfl, .inl rfl⟩
  | short _ h => rw [h]; exact .inr ⟨rfl, .inr rfl⟩
  | ack hv h | read hv _ _ h | other hv _ h => rw [h]; exact .inl ⟨hv, rfl⟩

section
variable {i : Instr} {s : State} {v : Byte}

/-- The step of the last byte ends the exchange, whatever the finish action leaves (R153, R154). -/
theorem LastByte.ended (h : LastByte s v) {b : Block} (hf : FinishCase (lastBlock s v) b) :
    Ended s (afterLast s b) v := by
  obtain ⟨hcmd, htxcnt, hrxcnt, htxlen, hrxlen, hmem⟩ := hf.frame
  obtain ⟨hoperands, hplen, hpbuf⟩ := hf.sameOperands
  obtain ⟨hphase, hbusy⟩ := hf.atRest
  have hother {k : BufId} {j : Nat} (hk : ¬ (k = .rxbuf ∧ j = s.blk.rxcnt.toNat)) :
      readByte (lastBlock s v).mem k j = readByte s.blk.mem k j := readByte_writeByte_other _ _ hk
  constructor
  case phase => exact hphase
  case status => exact ⟨hbusy, hf.done, hf.hosterr⟩
  case counts => exact ⟨htxcnt, hrxcnt⟩
  case lens => exact ⟨hplen, htxlen, hrxlen⟩
  case cmd => exact hcmd
  case response => exact hf.responseBytes.trans h.response
  case vflags => rw [← h.response]; exact hf.vflags
  case operands => exact hoperands
  case pbuf => exact fun j => (hpbuf j).trans (hother (by simp))
  case txbuf => exact fun j => (hmem .txbuf j (by decide)).trans (hother (by simp))
  case rxbuf => exact fun j hj => (hmem .rxbuf j (by decide)).trans (hother (by simp [hj]))
  case stream => exact ⟨rfl, rfl⟩
  case inputs => exact ⟨rfl, rfl, rfl⟩
  case toCome => exact ⟨rfl, rfl, rfl, rfl⟩

/-- The last byte goes to `RXBUF`, not to `RESBUF`. -/
theorem readByte_lastBlock_resbuf (s : State) (v : Byte) (j : Nat) :
    readByte (lastBlock s v).mem .resbuf j = readByte s.blk.mem .resbuf j :=
  readByte_writeByte_other _ _ (by simp)

/-! ## A response that is not valid -/

/-- Settles O29: the finish action raises `INVALID`, which writes no result register but `RLEN`. -/
theorem invalidResponseEndsInvalid : Obligations.InvalidResponseEndsInvalid := by
  intro s v h hv
  have hinvalid : isValid (responseBytes (lastBlock s v)) = false := by rw [h.response]; exact hv
  refine ⟨_, by rw [h.step_eq, finish_invalid hinvalid], h.ended (.invalid hinvalid rfl),
    ⟨rfl, rfl, readByte_lastBlock_resbuf s v⟩, resultOf_raise .., rfl, rfl, rfl, rfl, ?_⟩
  simp [afterLast, setsStale]

/-! ## A valid response -/

theorem LastByte.received_length (h : LastByte s v) : (received s v).length = s.blk.rxlen.toNat := by
  rw [← h.response, responseBytes_length]
  rfl

/-- The last byte of a valid response that holds the bytes the decode actions look at ends the op with `OK` and its row's
result (R109, R154). -/
theorem LastByte.step_ok (h : LastByte s v) (hv : isValid (received s v) = true) (hc : s.blk.cmd = encode i)
    (hx : isExchange i = true) (hn : bytesDecoded i + 3 ≤ s.blk.rxlen.toNat) :
    ∃ t, step s = .next t ∧ EndedOk s t v ∧ Decoded109 i (payload (received s v)) s t := by
  have hvalid : isValid (responseBytes (lastBlock s v)) = true := by rw [h.response]; exact hv
  have hop : decode s.blk.cmd = .op i := by rw [hc, decode_encode]
  have hcase : FinishCase (lastBlock s v) (finishOp i (doCheck (lastBlock s v))) := by
    rw [← finish_valid hvalid hop]
    exact finish_cases _
  refine ⟨_, h.step_valid hv hop, { h.ended hcase with ok := ?_, err := ?_ }, ?_⟩
  · obtain ⟨_, hstatus, _⟩ := finishOp_outcome (b := doCheck (lastBlock s v)) hx hn h.fits
    rw [afterLast, hstatus]
    exact ⟨rfl, rfl⟩
  · obtain he | ⟨r, a, he⟩ := finishOp_completes (b := doCheck (lastBlock s v)) hx hn h.fits <;> rw [afterLast, he] <;>
      exact ⟨rfl, rfl⟩
  · rw [← h.response]
    exact decoded_finishOp (b := doCheck (lastBlock s v)) hx hn h.fits hop rfl rfl (readByte_lastBlock_resbuf s v) rfl

end

/-- Settles O30: each of these ops decodes nothing, so any valid acknowledgment will do. -/
theorem commandOnlyOpsEndOkOnAnyValidAck : Obligations.CommandOnlyOpsEndOkOnAnyValidAck := by
  intro i s v hi hc h hv
  have h3 : 3 ≤ s.blk.rxlen.toNat := h.received_length ▸ (isValid_length hv).1
  rcases hi with rfl | rfl | rfl | rfl | rfl | rfl <;>
  · obtain ⟨t, hstep, hend, hyields, hrlen, hkept⟩ := h.step_ok hv hc rfl h3
    exact ⟨t, hstep, hend, hyields, hkept, hrlen⟩

/-- Settles O31: the row of each op, with the length of the payload. -/
theorem byteReadsReturnThePayload : Obligations.ByteReadsReturnThePayload := by
  intro i s v hi hc h hv
  have h3 : 3 ≤ s.blk.rxlen.toNat := h.received_length ▸ (isValid_length hv).1
  have hlen : (payload (received s v)).length = s.blk.rxlen.toNat - 3 := by rw [payload_length, h.received_length]
  rcases hi with rfl | ⟨rfl | rfl | rfl, h4⟩
  · obtain ⟨t, hstep, hend, hyields, hrlen, hres, had⟩ := h.step_ok hv hc rfl h3
    exact ⟨t, hstep, hend, hrlen.trans hlen, had, fun _ => ⟨hyields, hres⟩, nofun, nofun⟩
  · obtain ⟨t, hstep, hend, hyields, hrlen, had⟩ := h.step_ok hv hc rfl h4.ge
    exact ⟨t, hstep, hend, hrlen.trans hlen, had, nofun, fun _ => hyields, nofun⟩
  all_goals
    obtain ⟨t, hstep, hend, hyields, hrlen, had⟩ := h.step_ok hv hc rfl h4.ge
    exact ⟨t, hstep, hend, hrlen.trans hlen, had, nofun, nofun, fun _ => hyields⟩

end Sys2Proof.Machine

/-! PROOFS. How an exchange ends and how `PHASE` moves, from every state that meets the invariant (spec/41_exchange.md R155,
R156). -/

namespace Sys2Proof.Machine

/-! ## A step with an op in flight -/

/-- What one step made of a block that has an op in flight (R156). -/
inductive FlightCase (s t : State) : Prop where
  /-- The op goes on where it was. -/
  | goesOn (hp : t.blk.phase = s.blk.phase) (hok : t.blk.status.ok = s.blk.status.ok)
  /-- The request is complete (R152). -/
  | requestSent (rest : List Turn) (rx : RxOffer) (ht : s.turns = .fe .ready rx :: rest) (hp : s.blk.phase = .tx)
      (hl : s.blk.txcnt + 1 = s.blk.txlen) (h : t.blk = txAdvance s.blk)
  /-- `rst` is 1 (R270). -/
  | reset (h : t.blk = resetBlock s.blk)
  /-- The FE saw `cancel` (R240). -/
  | timeout (hc : s.cancel = true) (h : t.blk = raise .timeout 0 s.blk)
  /-- The FE saw a stream error on the channel in use (R240). -/
  | io (rest : List Turn) (tx : TxEvent) (rx : RxOffer) (e : Nat) (ht : s.turns = .fe tx rx :: rest)
      (hp : (s.blk.phase = .tx ∧ tx = .err e) ∨ (s.blk.phase = .rx ∧ rx = .err e))
      (h : t.blk = raise .io (errBits s.cfg e) s.blk)
  /-- The response is complete (R153, R154). -/
  | finished (v : Byte) (hp : s.blk.phase = .rx) (hl : s.blk.rxcnt + 1 = s.blk.rxlen)
      (h : FinishCase (stored v s.blk) t.blk)

/-- A busy block starts no op (R35). -/
theorem startsOp_busy {n : Nat} {b : Block} (hb : b.status.busy = true) : startsOp n b ≠ true := by
  simp [startsOp_iff, hb]

theorem flight_cases {s t : State} (hs : SeqOk s.blk) (hstep : step s = .next t) (hf : s.blk.phase ≠ .idle) :
    FlightCase s t := by
  have hb : s.blk.status.busy = true := hs.busy_iff.2 hf
  cases block_cases hstep with
  | same h _ => exact .goesOn (by rw [h]) (by rw [h])
  | wrote _ n v _ _ _ _ h _ =>
    obtain ⟨hp, hst, _⟩ := writeNumber_frame n v s.blk
    exact .goesOn (by rw [h, hp]) (by rw [h, hst])
  | illegal _ _ _ _ _ _ _ hn | op _ _ _ _ _ _ _ hn => exact absurd hn (startsOp_busy hb)
  | reset h _ => exact .reset h
  | timeout _ _ _ _ _ hc h _ => exact .timeout hc h
  | io rest tx rx e ht hp _ h _ => exact .io rest tx rx e ht hp h
  | sent rest rx ht hp h _ =>
    by_cases hl : s.blk.txcnt + 1 = s.blk.txlen
    · exact .requestSent rest rx ht hp hl h
    · exact .goesOn (by rw [h, txAdvance_more hl]) (by rw [h, txAdvance_more hl])
  | received _ _ _ _ _ _ h _ => exact .goesOn (by rw [h]; rfl) (by rw [h]; rfl)
  | finished _ _ v _ hp hl h _ => exact .finished v hp hl h

/-! ## The end with `OK` -/

/-- The first two bytes of a valid packet (R98). -/
theorem isValid_header {l : List Byte} (h : isValid l = true) :
    l.getD 0 0 = handshake ∧ (l.getD 1 0).toNat = l.length - 3 := by
  obtain ⟨a, n, p, c, rfl⟩ := exists_parts (isValid_length h).1
  obtain ⟨hhs, hlen, _⟩ := isValid_parts.1 h
  exact ⟨hhs, by simpa using hlen⟩

/-- Only the step of the last byte ends an op in flight with `OK` (R155). -/
theorem finished_of_ok {s t : State} (hs : SeqOk s.blk) (hstep : step s = .next t) (hf : s.blk.phase ≠ .idle)
    (hok : t.blk.status.ok = true) :
    ∃ v, s.blk.rxcnt + 1 = s.blk.rxlen ∧ FinishCase (stored v s.blk) t.blk := by
  obtain ⟨_, hquiet, _⟩ := hs.flying_quiet hf
  cases flight_cases hs hstep hf with
  | finished v _ hl h => exact ⟨v, hl, h⟩
  | goesOn _ h => rw [h, hquiet] at hok; cases hok
  | requestSent _ _ _ _ _ h => rw [h, txAdvance_status, hquiet] at hok; cases hok
  | reset h | timeout _ h | io _ _ _ _ _ _ h => rw [h] at hok; cases hok

/-- Settles O36: only the last byte ends an op with `OK`, on a valid response, and that has the header of a packet. -/
theorem anExchangeThatEndsOkReceivedAValidResponse : Obligations.AnExchangeThatEndsOkReceivedAValidResponse := by
  intro s t hinv hstep hb hok
  obtain ⟨v, hlast, hf⟩ := finished_of_ok hinv.seq hstep (hinv.seq.busy_iff.1 hb) hok
  obtain ⟨_, _, hrxcnt, _, hrxlen, _⟩ := hf.frame
  have hv : isValid (responseBytes t.blk) = true := by
    rw [hf.responseBytes]
    obtain ⟨hv, _⟩ | ⟨hno, _⟩ := hf.verdict
    · exact hv
    · rw [hno] at hok; cases hok
  obtain ⟨h3, _⟩ := isValid_length hv
  obtain ⟨hhs, hlen⟩ := isValid_header hv
  rw [responseBytes_length] at h3 hlen
  rw [responseBytes, readBytes_getD _ _ (by omega)] at hhs hlen
  refine ⟨?_, hrxlen, ?_, hv, hhs, hlen⟩
  · rw [hrxcnt, hrxlen]; exact hlast
  · rw [hf.vflags, checkFlags_valid, ← hf.responseBytes]; exact hv

/-! ## The transitions of `PHASE` -/

/-- HOST's next move writes the code of an exchange op to `CMD`. -/
def StartsExchange (s : State) : Prop :=
  ∃ n v h rest i, s.turns = .host :: rest ∧ s.host = .wr n v :: h ∧ regOfNumber n = some .cmd
    ∧ decode (BitVec.ofNat 8 v) = .op i ∧ isExchange i = true

/-- From `IDLE` (R156): stay, or the start of an exchange. -/
theorem step_from_idle {s t : State} (hstep : step s = .next t) (hp : s.blk.phase = .idle) :
    t.blk.phase = .idle ∨ (t.blk.phase = .tx ∧ StartsExchange s) := by
  cases block_cases hstep with
  | same h _ => rw [h]; exact .inl hp
  | wrote _ n v _ _ _ _ h _ =>
    rw [h]
    exact .inl ((writeNumber_frame n v s.blk).1.trans hp)
  | reset h _ | illegal _ _ _ _ _ _ _ _ h _ => rw [h]; exact .inl rfl
  | op rest n v more i ht hh hn hd h _ =>
    obtain hrest | ⟨c, m, hx, _, _, _, _, hstart⟩ := h.atRest_or_started
    · exact .inl hrest.1
    · rw [hstart]
      exact .inr ⟨rfl, n, v, more, rest, i, ht, hh, (startsOp_iff.1 hn).1, hd, hx⟩
  | timeout _ _ _ _ hf | io _ _ _ _ _ hf | sent _ _ _ hf | received _ _ _ _ hf | finished _ _ _ _ hf => simp [hp] at hf

/-- From `TX` (R156): stay, the last request byte, or the end of the op. -/
theorem step_from_tx {s t : State} (hs : SeqOk s.blk) (hstep : step s = .next t) (hp : s.blk.phase = .tx) :
    t.blk.phase = .tx
    ∨ (t.blk.phase = .rx ∧ (∃ rx rest, s.turns = .fe .ready rx :: rest) ∧ s.blk.txcnt.toNat + 1 = s.blk.txlen.toNat)
    ∨ (t.blk.phase = .idle
        ∧ (AtReset t.blk ∨ (s.cancel = true ∧ t.blk.err = .timeout)
          ∨ ((∃ e rx rest, s.turns = .fe (.err e) rx :: rest) ∧ t.blk.err = .io))) := by
  cases flight_cases hs hstep (by simp [hp]) with
  | goesOn h _ => exact .inl (h.trans hp)
  | requestSent rest rx ht _ hl h =>
    have hlt := (hs.tx_counts hp).1
    refine .inr (.inl ⟨by rw [h, txAdvance_last hl], ⟨rx, rest, ht⟩, ?_⟩)
    rw [← hl, len_succ (by omega)]
  | reset h => rw [h]; exact .inr (.inr ⟨rfl, .inl (atReset_resetBlock _)⟩)
  | timeout hc h => rw [h]; exact .inr (.inr ⟨rfl, .inr (.inl ⟨hc, rfl⟩)⟩)
  | io rest tx rx e ht hch h =>
    obtain ⟨_, rfl⟩ | ⟨hrx, _⟩ := hch
    · rw [h]; exact .inr (.inr ⟨rfl, .inr (.inr ⟨⟨e, rx, rest, ht⟩, rfl⟩)⟩)
    · simp [hp] at hrx
  | finished _ hrx => simp [hp] at hrx

/-- From `RX` (R156): stay, or the end of the op. -/
theorem step_from_rx {s t : State} (hs : SeqOk s.blk) (hstep : step s = .next t) (hp : s.blk.phase = .rx) :
    t.blk.phase = .rx
    ∨ (t.blk.phase = .idle
        ∧ (AtReset t.blk ∨ (s.cancel = true ∧ t.blk.err = .timeout)
          ∨ ((∃ e tx rest, s.turns = .fe tx (.err e) :: rest) ∧ t.blk.err = .io)
          ∨ (s.blk.rxcnt.toNat + 1 = s.blk.rxlen.toNat
              ∧ (t.blk.status.ok = true ∨ t.blk.err = .invalid ∨ t.blk.err = .short)))) := by
  cases flight_cases hs hstep (by simp [hp]) with
  | goesOn h _ => exact .inl (h.trans hp)
  | requestSent _ _ _ htx => simp [hp] at htx
  | reset h => rw [h]; exact .inr ⟨rfl, .inl (atReset_resetBlock _)⟩
  | timeout hc h => rw [h]; exact .inr ⟨rfl, .inr (.inl ⟨hc, rfl⟩)⟩
  | io rest tx rx e ht hch h =>
    obtain ⟨htx, _⟩ | ⟨_, rfl⟩ := hch
    · simp [hp] at htx
    · rw [h]; exact .inr ⟨rfl, .inr (.inr (.inl ⟨⟨e, tx, rest, ht⟩, rfl⟩))⟩
  | finished v _ hl h =>
    have hlt := (hs.rx_counts hp).2
    refine .inr ⟨h.atRest.1, .inr (.inr (.inr ⟨?_, h.verdict.imp And.right And.right⟩))⟩
    rw [← hl, len_succ (by omega)]

/-- Settles O37: from each value of `PHASE`, the moves a step can make. -/
theorem phaseMovesOnlyAsTheTableSays : Obligations.PhaseMovesOnlyAsTheTableSays := by
  intro s t hinv hstep
  refine ⟨fun hp hn => ?_, fun hp hn => ?_, fun hp hn => ?_, fun hp hn => ?_, fun hp hn => ?_, fun hp hn => ?_⟩
  · rcases step_from_idle hstep hp with h | ⟨h, _⟩ <;> simp [hn] at h
  · rcases step_from_rx hinv.seq hstep hp with h | ⟨h, _⟩ <;> simp [hn] at h
  · rcases step_from_idle hstep hp with h | ⟨_, hstart⟩
    · simp [hn] at h
    · exact hstart
  · rcases step_from_tx hinv.seq hstep hp with h | ⟨_, hlast⟩ | ⟨h, _⟩
    · simp [hn] at h
    · exact hlast
    · simp [hn] at h
  · rcases step_from_tx hinv.seq hstep hp with h | ⟨h, _⟩ | ⟨_, hend⟩
    · simp [hn] at h
    · simp [hn] at h
    · exact hend
  · rcases step_from_rx hinv.seq hstep hp with h | ⟨_, hend⟩
    · simp [hn] at h
    · exact hend

end Sys2Proof.Machine

/-! PROOFS. The acceptance of the relay and bank ops: each operand byte as the command table writes it, and the refusal of an
offset that does not fit (spec/42_relay_commands.md R180 to R187, spec/30_encoding.md R102, R103). -/

namespace Sys2Proof.Machine

/-! ## The relay ops -/

theorem relayPayload_eq {n : RelayIdx} {lsb msb : Byte} (hl : lsb.toNat = (n.toNat - 1) % 256)
    (hm : msb.toNat = (n.toNat - 1) / 256) (sub : Byte) : relayPayload sub n = [254#8, sub, lsb, msb] := by
  have hfst : (encRelay n).1 = lsb := BitVec.eq_of_toNat_eq ((encRelay_fst n).trans hl.symm)
  have hsnd : (encRelay n).2 = msb := BitVec.eq_of_toNat_eq ((encRelay_snd n).trans hm.symm)
  rw [relayPayload, hfst, hsnd, cmdPrefix]

/-- Settles O22: the three ops differ in their code and sub-command byte alone, and 4 bytes are the acknowledgment's length
and that of a one-byte read. -/
theorem relayOpsStartWithTheEncodedIndex : Obligations.RelayOpsStartWithTheEncodedIndex := by
  intro s lsb msb hn hl hm
  have hstart (c sub : Byte) : Started c [254#8, sub, lsb, msb] 4 s
      (withBlk s (relayOp sub (fun b => startXchg 4 (doBuild b)) (accept c s.blk))) := by
    rw [← relayPayload_eq hl hm]
    exact relayOp_started (relay_toNat_pos hn).ne' (by decide)
  exact ⟨⟨_, rfl, hstart _ _⟩, ⟨_, rfl, hstart _ _⟩, ⟨_, rfl, hstart _ _⟩⟩

/-! ## The bank ops -/

/-- Settles O23: no guard stands before a bank op's row of the command table. -/
theorem bankOpsStartWithTheirOperands : Obligations.BankOpsStartWithTheirOperands := fun _ =>
  ⟨exec_started (i := .bnkset) rfl, exec_started (i := .bnkget) rfl⟩

/-! ## The relay-by-bank ops -/

theorem ofNat_add_eq {base : Nat} {x sub : Byte} (h : sub.toNat = base + x.toNat) : BitVec.ofNat 8 base + x = sub := by
  rw [← ofNat_add_toNat, ← h, BitVec.ofNat_toNat, BitVec.setWidth_eq]

theorem exec_offsetOp_over {c x : Byte} {base : Nat} {s : State} {go : Byte → Block → Block} (h : 255 < base + x.toNat) :
    withBlk s (offsetOp base x go (accept c s.blk)) = refusedState c s := by
  rw [offsetOp_over h, refused_eq]

theorem requestOf_brlyon {cfg : Config} {b : Block} {sub : Byte} (h : sub.toNat = 107 + b.index.toNat) :
    requestOf cfg b .brlyon = some (brlyonPayload cfg.brlyonForm sub b.bank, 4) := by
  have hfits : b.index.toNat ≤ 148 := by omega
  simp only [requestOf, hfits, if_true, ofNat_add_eq h]
  cases cfg.brlyonForm <;> rfl

theorem requestOf_brlyoff {cfg : Config} {b : Block} {sub : Byte} (h : sub.toNat = 99 + b.index.toNat) :
    requestOf cfg b .brlyoff = some ([254#8, sub, b.bank], 4) := by
  have hfits : b.index.toNat ≤ 156 := by omega
  simp only [requestOf, hfits, if_true, ofNat_add_eq h]

/-- Settles O24, by whether the offset byte fits; `BRLYON_FORM` chooses the shape of `BRLYON`'s payload alone. -/
theorem bankRelativeOpsStartOrRefuse : Obligations.BankRelativeOpsStartOrRefuse := by
  refine ⟨fun s sub h => ?_, fun s sub h => exec_started (requestOf_brlyoff h), fun s h => ?_, fun s h => ?_⟩
  · obtain ⟨t, ht, hst⟩ := exec_started (requestOf_brlyon (cfg := s.cfg) h)
    exact ⟨t, ht, fun hf => by rw [hf] at hst; exact hst, fun hf => by rw [hf] at hst; exact hst⟩
  · exact congrArg Host.Outcome.next (exec_offsetOp_over (show 255 < 107 + s.blk.index.toNat by omega))
  · exact congrArg Host.Outcome.next (exec_offsetOp_over (show 255 < 99 + s.blk.index.toNat by omega))

end Sys2Proof.Machine

/-! PROOFS. The A/D reads: their acceptance, and the step of the last byte of a valid response to those that fill `AD`
(spec/43_adc_commands.md R200 to R205, spec/60_exceptions.md R235, R242). -/

namespace Sys2Proof.Machine

/-! ## Acceptance -/

theorem requestOf_ad8one_eq {cfg : Config} {b : Block} {sub : Byte} (h : sub.toNat = 149 + b.chan.toNat) :
    requestOf cfg b .ad8one = some ([254#8, sub], 4) := by
  have hfits : b.chan.toNat ≤ 106 := by omega
  simp only [requestOf, hfits, if_true, ofNat_add_eq h]

theorem requestOf_ad10one_eq {cfg : Config} {b : Block} {sub : Byte} (h : sub.toNat = 149 + b.chan.toNat) :
    requestOf cfg b .ad10one = some ([254#8, sub], ad10oneCount cfg.ad10oneNreq + 3) := by
  have hfits : b.chan.toNat ≤ 106 := by omega
  simp only [requestOf, hfits, if_true, ofNat_add_eq h]
  cases cfg.ad10oneNreq <;> rfl

/-- Settles O25, by whether the channel byte fits; `AD10ONE_NREQ` chooses `AD10ONE`'s response length alone. -/
theorem singleAdcReadsStartOrRefuse : Obligations.SingleAdcReadsStartOrRefuse := by
  refine ⟨fun s sub h => ⟨exec_started (requestOf_ad8one_eq h), ?_⟩, fun s h => ?_⟩
  · obtain ⟨t, ht, hst⟩ := exec_started (requestOf_ad10one_eq (cfg := s.cfg) h)
    exact ⟨t, ht, fun hn => by rw [hn] at hst; exact hst, fun hn => by rw [hn] at hst; exact hst⟩
  · have hover : 255 < 149 + s.blk.chan.toNat := by omega
    exact ⟨congrArg Host.Outcome.next (exec_offsetOp_over hover), congrArg Host.Outcome.next (exec_offsetOp_over hover)⟩

/-- Settles O26: no guard stands before a read-all op's row of the command table. -/
theorem allAdcReadsStart : Obligations.AllAdcReadsStart := fun _ =>
  ⟨exec_started (i := .ad8all) rfl, exec_started (i := .ad10all) rfl⟩

/-! ## The end of a read that fills `AD` -/

/-- `AD10ONE` with fewer than two payload bytes raises `SHORT` over the block as it was, not over the copied payload
(R203, R242; log entry 7). -/
theorem finishAd10one_of_lt {b : Block} (h : b.rxlen.toNat < 5) : finishAd10one b = raise .short 0 b := by
  have hlen : (doPayload b).rlen.toNat < 2 := by
    rw [doPayload_rlen, BitVec.toNat_ofNat, Nat.mod_eq_of_lt (by omega)]
    omega
  exact if_pos hlen

section
variable {s : State} {v : Byte}

/-- A read that copied the whole payload has its length in `RLEN` (R138). -/
theorem LastByte.rlen_eq (h : LastByte s v) {t : State} {n : Nat}
    (hl : t.blk.rlen.toNat = (payload (received s v)).length) (hn : s.blk.rxlen.toNat = n + 3) :
    t.blk.rlen = BitVec.ofNat 8 n := by
  have hlen : t.blk.rlen.toNat = n := by rw [hl, payload_length, h.received_length, hn, Nat.add_sub_cancel]
  rw [← hlen, BitVec.ofNat_toNat, BitVec.setWidth_eq]

/-- The step of the last byte of a valid response too short for `AD10ONE` (R203, R235). -/
theorem LastByte.step_short (h : LastByte s v) (hv : isValid (received s v) = true) (hc : s.blk.cmd = encode .ad10one)
    (hlt : s.blk.rxlen.toNat < 5) :
    step s = .next (afterLast s (raise .short 0 (doCheck (lastBlock s v)))) := by
  rw [h.step_valid hv (i := .ad10one) (by rw [hc, decode_encode]), finishOp, finishAd10one_of_lt (by exact hlt)]

end

/-- Settles O32: the row of each op, with the length of its payload. -/
theorem allAdcReadsFillTheEightSlots : Obligations.AllAdcReadsFillTheEightSlots := by
  refine fun s v h hv => ⟨fun hc hrx => ?_, fun hc hrx => ?_⟩
  all_goals
    obtain ⟨t, hstep, hend, hyields, hrlen, hres⟩ := h.step_ok hv hc rfl hrx.ge
    exact ⟨t, hstep, hend, h.rlen_eq hrlen hrx, hres, hyields⟩

/-- Settles O33: two payload bytes give the op's row; with one, `SHORT` writes no result register but `RLEN`. -/
theorem adTenOneDecodesTwoBytesOrEndsShort : Obligations.AdTenOneDecodesTwoBytesOrEndsShort := by
  refine fun s v hc h hv => ⟨fun h5 => ?_, fun h4 => ?_⟩
  · obtain ⟨t, hstep, hend, hyields, hrlen, hres, had⟩ := h.step_ok hv hc rfl h5.ge
    exact ⟨t, hstep, hend, h.rlen_eq hrlen h5, hres, hyields, had⟩
  · have hvalid : isValid (responseBytes (lastBlock s v)) = true := by rw [h.response]; exact hv
    exact ⟨_, h.step_short hv hc (by omega), h.ended (.short hvalid rfl), rfl, rfl, rfl, rfl,
      raise_stale (by simp [setsStale]), ⟨rfl, rfl, readByte_lastBlock_resbuf s v⟩, resultOf_raise ..⟩

end Sys2Proof.Machine

/-! PROOFS. The system ops (spec/44_system_ops.md R220 to R222): what `NOP` and `CLRSTALE` complete on, and the block `SRESET`
leaves. -/

namespace Sys2Proof.Machine

/-! ## `NOP` and `CLRSTALE` -/

/-- A pure op that completes at once leaves the completed state of the block it accepted on (R130). -/
theorem completed_eq (c : Byte) (s : State) (b : Block) :
    withBlk s (completeOk (accept c b)) = completedState c s b := rfl

/-- `CLRSTALE` clears a flag acceptance does not touch, so the two may be done in either order (R130, R221). -/
theorem clearStale_accept (c : Byte) (b : Block) : clearStale (accept c b) = accept c (clearStale b) := rfl

/-- Settles O12: `NOP` completes on the block as it was accepted. -/
theorem nopWritesOnlyItsOutcome : Obligations.NopWritesOnlyItsOutcome :=
  ⟨fun s => congrArg Host.Outcome.next (completed_eq (encode .nop) s s.blk),
    atReset_reset.control.1, congrArg Status.done atReset_reset.flags.1⟩

/-- Settles O13: `CLRSTALE` completes on the block with `STALE` cleared. -/
theorem clrstaleClearsStaleOnly : Obligations.ClrstaleClearsStaleOnly := by
  intro s
  have hblock : withBlk s (completeOk (clearStale (accept (encode .clrstale) s.blk)))
      = completedState (encode .clrstale) s (clearStale s.blk) := by
    rw [clearStale_accept, completed_eq]
  exact congrArg Host.Outcome.next hblock

/-! ## `SRESET` -/

/-- `SRESET` writes the block alone (R222). -/
theorem exec_sreset (s : State) : exec .sreset s = .next (withBlk s (resetBlock s.blk)) := rfl

/-- Settles O14: the block `SRESET` leaves is the one every reset leaves. -/
theorem sresetLeavesTheResetState : Obligations.SresetLeavesTheResetState := fun s =>
  ⟨_, exec_sreset s, atReset_resetBlock s.blk, rfl⟩

end Sys2Proof.Machine

/-! PROOFS. Exceptions (spec/60_exceptions.md R234 to R243): every step has a next state, what raises `ARG`, what an exchange
that ends with an error leaves, and the steps that do not look at `cancel`. -/

namespace Sys2Proof.Machine

/-! ## No step stops -/

/-- The next move is over by itself, or it is the acceptance of an op, and every op answers a next state. -/
theorem step_next (s : State) : ∃ t, step s = .next t := by
  cases hn : nextAction s with
  | ended t => exact ⟨t, step_ended hn⟩
  | start i u =>
    obtain ⟨b, hb⟩ := exec_next i u
    exact ⟨_, (step_start hn).trans hb⟩

/-- Settles O52: there is a next state, and no step writes the parameters. -/
theorem everyStepHasANextState : Obligations.EveryStepHasANextState := by
  intro s
  obtain ⟨t, ht⟩ := step_next s
  exact ⟨t, ht, step_cfg ht⟩

/-! ## The causes of `ARG` -/

theorem exec_relayOp_zero {c sub : Byte} {s : State} {go : Block → Block} (h : s.blk.relay = 0) :
    withBlk s (relayOp sub go (accept c s.blk)) = refusedState c s := by
  rw [relayOp_zero (by exact h), refused_eq]

/-- A listed cause refuses the op, whichever guard looks at it; `CHECK` alone clears `VFLAGS` with it (R136, R234). -/
theorem exec_of_argCause {i : Instr} {s : State} (h : argCause s.blk i) :
    ∃ v, exec i s = .next (refusedState (encode i) { s with blk := { s.blk with vflags := v } }) := by
  cases i with
  | nop | bnkset | bnkget | ad8all | ad10all | clrstale | sreset => exact h.elim
  | csum | build | rawcmd | rawrd => exact ⟨s.blk.vflags, congrArg Host.Outcome.next (exec_guardPlen_of_gt h)⟩
  | check => exact ⟨VFlags.clear, exec_check_of_gt h⟩
  | payld => exact ⟨s.blk.vflags, exec_payld_of_not_valid h⟩
  | rlyon | rlyoff | rlyget => exact ⟨s.blk.vflags, congrArg Host.Outcome.next (exec_relayOp_zero h)⟩
  | brlyon | brlyoff | ad8one | ad10one => exact ⟨s.blk.vflags, congrArg Host.Outcome.next (exec_offsetOp_over h)⟩

/-- Without a listed cause the op passes its guard, and neither the start of an exchange nor completion records an error. -/
theorem exec_of_not_argCause {i : Instr} {s : State} (h : ¬ argCause s.blk i) :
    ∃ t, exec i s = .next t ∧ t.blk.err = .none := by
  cases i with
  | nop | bnkset | bnkget | ad8all | ad10all | clrstale | sreset => exact ⟨_, rfl, rfl⟩
  | csum => exact ⟨_, exec_csum_of_le (Nat.not_lt.1 h), rfl⟩
  | build => exact ⟨_, exec_build_of_le (Nat.not_lt.1 h), rfl⟩
  | check => exact ⟨_, exec_check_of_le (Nat.not_lt.1 h), rfl⟩
  | payld => exact ⟨_, exec_payld_of_valid (Bool.eq_true_of_not_eq_false h), rfl⟩
  | rawcmd | rawrd => exact ⟨_, congrArg Host.Outcome.next (exec_guardPlen_of_le (Nat.not_lt.1 h)), rfl⟩
  | rlyon | rlyoff | rlyget => exact ⟨_, congrArg (fun b => Host.Outcome.next (withBlk s b)) (relayOp_pos h), rfl⟩
  | brlyon | brlyoff | ad8one | ad10one =>
    exact ⟨_, congrArg (fun b => Host.Outcome.next (withBlk s b)) (offsetOp_fits (Nat.not_lt.1 h)), rfl⟩

/-- Settles O19, by whether the op's cause holds. -/
theorem argIsRaisedForExactlyTheListedCauses : Obligations.ArgIsRaisedForExactlyTheListedCauses := by
  intro i s
  by_cases h : argCause s.blk i
  · obtain ⟨v, ht⟩ := exec_of_argCause h
    exact ⟨_, ht, iff_of_true rfl h, fun _ => ⟨rfl, rfl, rfl, rfl, rfl, rfl, rfl, rfl⟩⟩
  · obtain ⟨t, ht, he⟩ := exec_of_not_argCause h
    exact ⟨t, ht, by simp [he, h], fun hc => absurd hc h⟩

/-! ## The end of an exchange with an error -/

/-- What one step made of a block that had no outcome and that it left with an error. -/
inductive ErrorCase (s t : State) : Prop where
  /-- `cancel` or a stream error cut the exchange short (R240). -/
  | cut (k : ErrKind) (e : Nat) (h : t.blk = raise k e s.blk) (hs : t.stream.sent = s.stream.sent)
  /-- The finish action rejected the complete response (R154, R203). -/
  | rejected (k : ErrKind) (v : Byte) (hk : k = .invalid ∨ k = .short) (h : t.blk = raise k 0 (doCheck (stored v s.blk)))
  /-- An acceptance was refused (R234). With an op in flight that takes `PHASE` and `BUSY` apart, as no reachable state has
  them (R25, R28). -/
  | refused (c : Byte) (v : VFlags) (h : t.blk = raise .arg 0 { accept c s.blk with vflags := v })

/-- Only a refusal ends an acceptance with `DONE` = 1 and `OK` = 0. -/
theorem ExecCase.refused_of_not_ok {i : Instr} {b t : Block} (h : ExecCase i b t) (hd : t.status.done = true)
    (ho : t.status.ok = false) : ∃ v, t = raise .arg 0 { accept (encode i) b with vflags := v } := by
  cases h with
  | refused v _ h => exact ⟨v, h⟩
  | sreset _ h => rw [h] at hd; cases hd
  | started c _ _ _ _ _ hc _ h =>
    rw [h] at hd
    obtain rfl | ⟨_, _, rfl⟩ := hc <;> cases hd
  | nop _ h | csum _ h | build _ _ h | check _ _ h | payld _ _ h | clrstale _ h => rw [h] at ho; cases ho

/-- Only a response that is not valid, or too short for its op, makes the finish action end with `OK` = 0 (R154). -/
theorem FinishCase.rejected_of_not_ok {b t : Block} (h : FinishCase b t) (ho : t.status.ok = false) :
    ∃ k, (k = .invalid ∨ k = .short) ∧ t = raise k 0 (doCheck b) := by
  cases h with
  | invalid _ h => exact ⟨_, .inl rfl, h⟩
  | short _ h => exact ⟨_, .inr rfl, h⟩
  | ack _ h | read _ _ _ h | other _ _ h => rw [h] at ho; cases ho

theorem error_cases {s t : State} (hstep : step s = .next t) (hq : s.blk.status.done = false)
    (hd : t.blk.status.done = true) (ho : t.blk.status.ok = false) : ErrorCase s t := by
  cases block_cases hstep with
  | timeout _ _ _ _ _ _ h hs | io _ _ _ _ _ _ _ h hs => exact .cut _ _ h hs
  | finished _ _ v _ _ _ h _ =>
    obtain ⟨k, hk, h⟩ := h.rejected_of_not_ok ho
    exact .rejected k v hk h
  | illegal _ _ _ _ c _ _ _ h _ => exact .refused c s.blk.vflags h
  | op _ _ _ _ i _ _ _ _ h _ =>
    obtain ⟨v, h⟩ := h.refused_of_not_ok hd ho
    exact .refused _ v h
  | same h _ | sent _ _ _ _ h _ | received _ _ _ _ _ _ h _ => rw [h] at hd; cases hq.symm.trans hd
  | wrote _ n v _ _ _ _ h _ =>
    rw [h, (writeNumber_frame n v s.blk).2.1] at hd
    cases hq.symm.trans hd
  | reset h _ => rw [h] at hd; cases hd

/-- Settles O38: every error is a `raise`, which writes no result register but `RLEN`; the response byte stored before one went
to `RXBUF`. -/
theorem errorsLeaveResultsAlone : Obligations.ErrorsLeaveResultsAlone := by
  intro s t hstep _ hd ho hq
  cases error_cases hstep hq hd ho with
  | cut _ _ h _ | refused _ _ h => exact ⟨⟨by rw [h]; rfl, by rw [h]; rfl, fun _ => by rw [h]; rfl⟩, by rw [h]; rfl⟩
  | rejected _ _ _ h =>
    refine ⟨⟨by rw [h]; rfl, by rw [h]; rfl, fun j => ?_⟩, by rw [h]; rfl⟩
    rw [h]
    exact readByte_writeByte_other (b := .rxbuf) _ _ (by simp)

/-! ## What was sent before `TIMEOUT` or `IO` -/

/-- A recorded error is the outcome of an op that ended (R29, R30). -/
theorem FlagsOk.ended_of_err {cfg : Config} {b : Block} (h : FlagsOk cfg b) (he : b.err ≠ .none) :
    b.status.done = true ∧ b.status.ok = false := by
  have hd : b.status.done = true := Bool.eq_true_of_not_eq_false fun hn => he (h.no_outcome hn).2
  exact ⟨hd, Bool.eq_false_of_not_eq_true fun ho => he ((h.outcome hd).1 ho)⟩

/-- From every state that meets the invariant, `TIMEOUT` and `IO` are raised on the block as it was, with nothing sent. -/
theorem RunInv.cut_of_timeout_or_io {s t : State} (hinv : RunInv s) (hstep : step s = .next t) (hf : s.blk.phase ≠ .idle)
    (he : t.blk.err = .timeout ∨ t.blk.err = .io) :
    ∃ k e, t.blk = raise k e s.blk ∧ t.stream.sent = s.stream.sent := by
  obtain ⟨hq, _⟩ := hinv.seq.flying_quiet hf
  obtain ⟨hd, ho⟩ := (step_flagsOk hinv.seq hinv.flags hstep).ended_of_err (by rcases he with he | he <;> simp [he])
  cases error_cases hstep hq hd ho with
  | cut k e h hs => exact ⟨k, e, h, hs⟩
  | rejected _ _ hk h => rw [h] at he; rcases hk with rfl | rfl <;> simp at he
  | refused _ _ h => rw [h] at he; simp at he

/-- In flight `TXCNT` is at most `TXLEN`, and equal to it exactly in `RX` (R152). -/
theorem SeqOk.txcnt_le {b : Block} (h : SeqOk b) (hf : b.phase ≠ .idle) :
    b.txcnt.toNat ≤ b.txlen.toNat ∧ (b.txcnt.toNat = b.txlen.toNat ↔ b.phase = .rx) := by
  cases hp : b.phase with
  | idle => exact absurd hp hf
  | tx =>
    have hlt := (h.tx_counts hp).1
    exact ⟨hlt.le, iff_of_false hlt.ne (by decide)⟩
  | rx =>
    have heq := congrArg BitVec.toNat (h.rx_counts hp).1
    exact ⟨heq.le, iff_of_true heq rfl⟩

/-- Settles O59: the block is as it was but for its outcome, and the invariant says what had been sent. -/
theorem afterTimeoutOrIoAPrefixWasSent : Obligations.AfterTimeoutOrIoAPrefixWasSent := by
  intro s t hinv hstep hf he
  obtain ⟨k, e, h, hs⟩ := hinv.cut_of_timeout_or_io hstep hf he
  obtain ⟨hle, hrx⟩ := hinv.seq.txcnt_le hf
  rw [h, hs]
  refine ⟨rfl, rfl, hinv.wire.sent_so_far hf, ?_, hrx⟩
  show readBytes s.blk.mem .txbuf 0 s.blk.txcnt.toNat <+: requestBytes s.blk
  rw [← readBytes_take _ _ _ hle]
  exact List.take_prefix _ _

/-! ## `cancel` outside the FE's steps -/

/-- The same state at another level of `cancel` (R239). -/
def State.setCancel (c : Bool) (s : State) : State := { s with cancel := c }

/-- The same move at another level of `cancel`. -/
def Action.setCancel (c : Bool) : Action → Action
  | .ended s => .ended (s.setCancel c)
  | .start i s => .start i (s.setCancel c)

theorem settle_setCancel (c : Bool) (s : State) : settle (s.setCancel c) = (settle s).setCancel c := by
  cases hr : s.rst with
  | true => rw [settle_high hr, settle_high (by exact hr)]; rfl
  | false => rw [settle_low hr, settle_low (by exact hr)]

theorem writeMove_setCancel (c : Bool) (n v : Nat) (s : State) :
    writeMove n v (s.setCancel c) = (writeMove n v s).setCancel c := by
  cases hs : startsOp n s.blk with
  | false => simp [writeMove, State.setCancel, Action.setCancel, withBlk, hs]
  | true =>
    cases hd : decode (BitVec.ofNat 8 v) <;> simp [writeMove, State.setCancel, Action.setCancel, withBlk, hs, hd]

theorem hostMove_setCancel (c : Bool) (s : State) : hostMove (s.setCancel c) = (hostMove s).setCancel c := by
  cases hh : s.host with
  | nil => simp [hostMove, State.setCancel, Action.setCancel, hh]
  | cons a rest =>
    cases a with
    | wr n v => simpa [hostMove, State.setCancel, hh] using writeMove_setCancel c n v { s with host := rest }
    | rd n =>
      have hread (u : State) : hostRead n (u.setCancel c) = (hostRead n u).setCancel c := rfl
      simpa [hostMove, State.setCancel, Action.setCancel, hh] using hread { s with host := rest }
    | wait => cases hd : s.blk.status.done <;> simp [hostMove, State.setCancel, Action.setCancel, hh, hd]

/-- A move looks at `cancel` only where the FE takes a step in `TX` or `RX`; CANCEL's own move overwrites it. -/
theorem move_setCancel (c : Bool) {s : State} {m : Turn} (h : s.blk.phase = .idle ∨ ∀ tx rx, m ≠ .fe tx rx) :
    ∃ l, move m (s.setCancel c) = (move m s).setCancel l := by
  have hsettle (l : Bool) (u : State) : Action.ended (settle (u.setCancel l)) = (Action.ended (settle u)).setCancel l :=
    congrArg Action.ended (settle_setCancel l u)
  cases m with
  | host =>
    refine ⟨c, ?_⟩
    cases hr : s.rst with
    | true => rw [move, move, if_pos (by exact hr), if_pos hr]; exact hsettle c { s with host := hostLost s.host }
    | false =>
      rw [move, move, if_neg (by simp [State.setCancel, hr]), if_neg (by simp [hr])]
      exact hostMove_setCancel c s
  | fe tx rx =>
    refine ⟨c, ?_⟩
    have hp : s.blk.phase = .idle := h.resolve_right fun hne => hne tx rx rfl
    rw [move, move, feStep_idle hp, feStep_idle (by exact hp)]
    cases hr : s.rst with
    | true => rw [if_pos (by exact hr), if_pos rfl]; exact hsettle c s
    | false => rw [if_neg (by simp [State.setCancel, hr]), if_neg (by simp)]; rfl
  | cancel l => exact ⟨l, hsettle l { s with cancel := l }⟩
  | rst level => exact ⟨c, hsettle c { s with rst := level }⟩
  | arrive b => exact ⟨c, hsettle c { s with stream := { s.stream with held := s.stream.held ++ [b] } }⟩
  | drain => exact ⟨c, hsettle c { s with stream := { s.stream with held := [] } }⟩

theorem nextAction_nil {s : State} (ht : s.turns = []) : nextAction s = .ended (settle s) := by rw [nextAction, ht]

theorem nextAction_cons {s : State} {m : Turn} {rest : List Turn} (ht : s.turns = m :: rest) :
    nextAction s = move m { s with turns := rest } := by rw [nextAction, ht]

theorem nextAction_setCancel (c : Bool) {s : State}
    (h : s.blk.phase = .idle ∨ ∀ tx rx rest, s.turns ≠ .fe tx rx :: rest) :
    ∃ l, nextAction (s.setCancel c) = (nextAction s).setCancel l := by
  cases ht : s.turns with
  | nil =>
    rw [nextAction_nil ht, nextAction_nil (by exact ht)]
    exact ⟨c, congrArg Action.ended (settle_setCancel c s)⟩
  | cons m rest =>
    have hm : s.blk.phase = .idle ∨ ∀ tx rx, m ≠ .fe tx rx :=
      h.imp_right fun hne tx rx he => hne tx rx rest (by rw [ht, he])
    rw [nextAction_cons ht, nextAction_cons (by exact ht)]
    exact move_setCancel c (s := { s with turns := rest }) hm

/-- No op looks at `cancel` in its acceptance (R239). -/
theorem exec_setCancel {i : Instr} {s t : State} (c : Bool) (h : exec i s = .next t) :
    exec i (s.setCancel c) = .next (t.setCancel c) := by
  cases i <;> cases h <;> rfl

/-- The next move and the op it may start decide the outcome of a step. -/
theorem step_of_setCancel {c : Bool} {s t u : State} (hn : nextAction u = (nextAction s).setCancel c)
    (h : step s = .next t) : step u = .next (t.setCancel c) := by
  cases hs : nextAction s with
  | ended v =>
    rw [hs] at hn
    rw [step_ended hs] at h
    cases h
    exact step_ended hn
  | start i v =>
    rw [hs] at hn
    rw [step_start hs] at h
    exact (step_start hn).trans (exec_setCancel c h)

/-- Settles O35: the next move is the same at both levels, and so is the op it may start. -/
theorem cancelIsReadOnlyInTxAndRxSteps : Obligations.CancelIsReadOnlyInTxAndRxSteps := by
  intro s t c h hstep
  obtain ⟨l, hn⟩ := nextAction_setCancel c h
  exact ⟨_, step_of_setCancel hn hstep, rfl⟩

end Sys2Proof.Machine

/-! PROOFS. Hard reset (spec/70_reset_and_hazards.md R270, R271). -/

namespace Sys2Proof.Machine

/-- `rst` is 1 once the next move is made: it is 1 and the move does not lower it, or the move raises it (R270;
log entry 15). -/
def RstHigh (s : State) : Prop :=
  (s.rst = true ∧ ∀ rest, s.turns ≠ .rst false :: rest) ∨ ∃ rest, s.turns = .rst true :: rest

/-- Only RST's own move makes the level other than it was. -/
theorem RstHigh.rst_eq_true {s : State} (h : RstHigh s) (hne : ∀ l rest, s.turns ≠ .rst l :: rest) : s.rst = true := by
  obtain ⟨hr, _⟩ | ⟨rest, ht⟩ := h
  · exact hr
  · exact absurd ht (hne true rest)

/-- RST's own move leaves `rst` high only by driving it to 1. -/
theorem RstHigh.level_eq_true {s : State} {l : Bool} {rest : List Turn} (h : RstHigh s) (ht : s.turns = .rst l :: rest) :
    l = true := by
  obtain ⟨_, hne⟩ | ⟨rest', ht'⟩ := h
  · exact Bool.eq_true_of_not_eq_false fun hl => hne rest (hl ▸ ht)
  · cases ht.symm.trans ht'
    rfl

/-- With `rst` high every step is over with `settle`, and before that only the platform's moves touch the stream: one adds a
held byte, and `drain` alone removes any (log entry 2). -/
theorem StepCase.settled_of_rstHigh {s t : State} (hc : StepCase s t) (h : RstHigh s) :
    ∃ u, t = settle u ∧ u.rst = true ∧ u.stream.sent = s.stream.sent
      ∧ (s.stream.held <+: u.stream.held ∨ ∃ rest, s.turns = .drain :: rest) := by
  cases hc with
  | quiet ht ht' => exact ⟨_, ht', h.rst_eq_true (by simp [ht]), rfl, .inl List.prefix_rfl⟩
  | hostLost _ _ hr ht' | feReset _ _ _ _ hr ht' => exact ⟨_, ht', hr, rfl, .inl List.prefix_rfl⟩
  | cancel _ _ ht ht' => exact ⟨_, ht', h.rst_eq_true (by simp [ht]), rfl, .inl List.prefix_rfl⟩
  | rst _ _ ht ht' => exact ⟨_, ht', h.level_eq_true ht, rfl, .inl List.prefix_rfl⟩
  | arrive _ b ht ht' => exact ⟨_, ht', h.rst_eq_true (by simp [ht]), rfl, .inl (List.prefix_append _ [b])⟩
  | drain rest ht ht' => exact ⟨_, ht', h.rst_eq_true (by simp [ht]), rfl, .inr ⟨rest, ht⟩⟩
  | hostNone _ ht hr | hostRead _ _ _ ht hr | hostWaited _ _ ht hr | hostWaits _ _ ht hr | hostWrote _ _ _ _ ht hr
  | illegal _ _ _ _ _ ht hr | op _ _ _ _ _ ht hr | fe _ _ _ ht hr =>
    exact absurd (h.rst_eq_true (by simp [ht])) (by simp [hr])

/-- Settles O51: there is a next state, and it is one `settle` leaves with `rst` at 1. -/
theorem hardResetWinsOverEverything : Obligations.HardResetWinsOverEverything := by
  intro s h
  obtain ⟨t, hstep⟩ := step_next s
  obtain ⟨u, rfl, hr, hsent, hheld⟩ := (step_cases hstep).settled_of_rstHigh h
  refine ⟨settle u, hstep, ?_, ?_, ?_, ?_⟩
  · rw [settle_high hr]; exact atReset_resetBlock u.blk
  · rw [settle_high hr]; exact hr
  · rw [settle_stream]; exact hsent
  · rw [settle_stream]; exact hheld

end Sys2Proof.Machine
